-- ==== Sys2Proof/Word.lean ====
section
/-! DEFINITION. The byte of the transceiver access block (R10): 8 bits, bit 7 most significant. -/

namespace Sys2Proof

/-- A byte, numbered 7 down to 0 (R10). The block has no wider word: every bus access is byte-granular (R67). -/
abbrev Byte := BitVec 8

end Sys2Proof
end

