-- ==== Sys2Proof/Config.lean ====
section
/-! DEFINITION. The parameters of R9, the handle bound by init (R260), and the values the spec leaves to the
environment: each of those is an opaque constant, so that no proof can see what it is. -/

namespace Sys2Proof

/-- The open parameters of the parameter table (R9). They are fixed for one block: no step changes them. -/
structure Params where
  /-- `TICK_BITS`, the width of a tick reading. -/
  tickBits : Nat
  /-- `LEN_BITS`, the width of the request fields `len` and `cap`. -/
  lenBits : Nat
  /-- `TX_POLL_LIMIT`: `none` is the unbounded loop of the reference, `some L` needs L ≥ 1. -/
  txPollLimit : Option Nat
  /-- `CLEAR_TX_DS`: whether TX_DS is cleared after each acknowledged chunk. -/
  clearTxDs : Bool
deriving DecidableEq, Repr

/-- The defaults of R9. -/
def Params.default : Params :=
  { tickBits := 32, lenBits := 32, txPollLimit := none, clearTxDs := true }

/-- The restriction R9 puts on the parameters: a poll limit is at least 1. -/
def Params.wf (p : Params) : Bool :=
  match p.txPollLimit with
  | none => true
  | some l => decide (1 ≤ l)

/-- The configuration bound by `init(bus_client, chip_enable_pin, optional_irq_pin)` (R260). The three
identifiers are plain numbers; the IRQ pin identifier is bound and never read (R35). -/
structure Handle where
  busClient : Nat
  cePin : Nat
  irqPin : Option Nat
deriving DecidableEq, Repr, Inhabited

namespace Config

/-- `MAX_PAYLOAD` (R9). -/
def maxPayload : Nat := 32
/-- `ADDR_REG_LEN` (R9). -/
def addrRegLen : Nat := 5
/-- `RX_CAP_MIN` (R9). -/
def rxCapMin : Nat := 32
/-- `REG_ADDR_MAX` (R9): the largest address of the data model. No operation checks it (R84). -/
def regAddrMax : Byte := 0x1D#8
/-- `NUM_PIPES` (R9). No operation checks it: RX_PIPE_NO is passed through unvalidated (R36). -/
def numPipes : Nat := 6

/-- The values passed to the `init` that State.reset stands for (R38): the spec gives none. -/
opaque handle : Handle
/-- The chip-enable level after init, a draw that no claim may assume (R38, R261; log entry 2). -/
opaque ceAtInit : Bool
/-- The count behind the tick source at init (R232: its reset value is not in the source; log entry 3). -/
opaque tickAtInit : Nat

/-- Whether the device oracle ends the k-th unscripted bus transaction in a bus error (R31; log entry 4). -/
opaque busFails : Nat → Bool
/-- Byte i that the device oracle puts in its answer to the k-th bus transaction (R31; log entry 4). -/
opaque busByte : Nat → Nat → Byte
/-- How far the underlying tick count has moved at the k-th unscripted tick reading (R232; log entry 3). It is
an increment, so that the count never decreases whatever the value. -/
opaque tickAdvance : Nat → Nat
/-- Whether the cooperative-yield hook has returned at the k-th unscripted wait for it (R235; log entry 6). -/
opaque hookReturns : Nat → Bool

end Config

end Sys2Proof
end

