-- ==== Sys2Proof/Syntax.lean ====
section
/-! DEFINITION. The two instruction levels of R3 as one syntax, and the coded forms they are read from:
bus frames (R13, R85) and host request records (R90). -/

namespace Sys2Proof

/-- The three kinds of segment of a bus transaction (R13). -/
inductive SegKind where
  /-- `Wr(bytes)`: the bytes are sent; the bytes received meanwhile are discarded. -/
  | wr (bytes : List Byte)
  /-- `Rd(n)`: n bytes are received. -/
  | rd (n : Nat)
  /-- `Xch(bytes)`: the bytes are sent and as many are received. -/
  | xch (bytes : List Byte)
deriving DecidableEq, Repr

/-- A segment with the two options of the transaction primitive (R13): a post-segment device-select toggle
and a post-segment delay. The block requests neither. -/
structure Seg where
  kind : SegKind
  toggle : Bool := false
  delay : Nat := 0
deriving DecidableEq, Repr

/-- A write-only segment as the block requests it: no toggle, zero delay (R13). -/
def wr (bytes : List Byte) : Seg := { kind := .wr bytes }
/-- A read-only segment as the block requests it (R13). -/
def rd (n : Nat) : Seg := { kind := .rd n }
/-- A simultaneous segment as the block requests it (R13). -/
def xch (bytes : List Byte) : Seg := { kind := .xch bytes }

/-- One framed bus transaction: its segments in order (R13, R85). -/
abbrev Frame := List Seg

/-- A host request (R90). `len`, `cap` and `timeout` are numbers whose widths are parameters of the block;
WellFormed bounds them. -/
structure Request where
  opc : Byte
  addr : Byte := 0#8
  value : Byte := 0#8
  len : Nat := 0
  data : List Byte := []
  cap : Nat := 0
  timeout : Nat := 0
deriving DecidableEq, Repr

/-- The instruction set, one constructor per row of spec/opcode_table.json. The first eight are the bus
commands (R81–R83) with the data that follows them in their frame (R85); the other sixteen are the host
operations (R89) with the request fields they read (R90). -/
inductive Instr where
  /-- R_REGISTER (R81), reading n bytes: 1, or 5 for an address register (R85). -/
  | rRegister (a5 : BitVec 5) (n : Nat)
  /-- W_REGISTER (R82), writing the given bytes: 1, or 5 for an address register (R85). -/
  | wRegister (a5 : BitVec 5) (bytes : List Byte)
  /-- R_RX_PL_WID (R83, R122). -/
  | rRxPlWid
  /-- R_RX_PAYLOAD (R83, R123), reading w payload bytes. -/
  | rRxPayload (w : Byte)
  /-- W_TX_PAYLOAD (R83, R114), writing one payload. -/
  | wTxPayload (payload : List Byte)
  /-- FLUSH_TX, the bus command 0xE1 (R83). -/
  | cmdFlushTx
  /-- FLUSH_RX, the bus command 0xE2 (R83). -/
  | cmdFlushRx
  /-- NOP, the bus command 0xFF, which the block never emits (R119). -/
  | cmdNop
  /-- READ_REG (R110). -/
  | readReg (addr : Byte)
  /-- WRITE_REG (R111). -/
  | writeReg (addr value : Byte)
  /-- READ_ADDR_REG (R112). -/
  | readAddrReg (addr : Byte) (len : Nat)
  /-- WRITE_ADDR_REG (R113). -/
  | writeAddrReg (addr : Byte) (len : Nat) (data : List Byte)
  /-- WRITE_TX_PAYLOAD (R114). -/
  | writeTxPayload (len : Nat) (data : List Byte)
  /-- FLUSH_TX, the host operation 0x06 (R115). -/
  | flushTx
  /-- FLUSH_RX, the host operation 0x07 (R116). -/
  | flushRx
  /-- GET_STATUS (R117). -/
  | getStatus
  /-- GET_FIFO_STATUS (R118). -/
  | getFifoStatus
  /-- POWER_UP (R140). -/
  | powerUp
  /-- POWER_DOWN (R141). -/
  | powerDown
  /-- ENTER_RECEIVE (R142). -/
  | enterReceive
  /-- ENTER_TRANSMIT (R143). -/
  | enterTransmit
  /-- ENTER_STANDBY (R144). -/
  | enterStandby
  /-- SEND (R160). -/
  | send (len : Nat) (data : List Byte)
  /-- RECEIVE (R190). -/
  | receive (cap timeout : Nat)
deriving DecidableEq, Repr

/-- The coded form of an instruction: a bus frame for a bus command, a request record for a host operation
(R3: the two levels have code spaces of their own). -/
inductive Code where
  | frame (f : Frame)
  | request (r : Request)
deriving DecidableEq, Repr

end Sys2Proof
end

