-- ==== Sys2Proof/WellFormed.lean ====
section
/-! DEFINITION. When an instruction is well formed: the frame widths of R68 and R85 for a bus command, the
request conditions of R90 and the field widths of R9 for a host operation. -/

namespace Sys2Proof

/-- A register frame moves 1 byte, or 5 for an address register (R68, R85). -/
def regWidthOk (n : Nat) : Bool := n == 1 || n == Config.addrRegLen

/-- Well-formedness under the block's parameters. -/
def Instr.wf (p : Params) (i : Instr) : Bool :=
  match i with
  | .rRegister _ n => regWidthOk n
  | .wRegister _ bytes => regWidthOk bytes.length
  | .rRxPlWid => true
  | .rRxPayload w => decide (w.toNat ≤ Config.maxPayload)
  | .wTxPayload payload => decide (payload.length ≤ Config.maxPayload)
  | .cmdFlushTx => true
  | .cmdFlushRx => true
  | .cmdNop => true
  | .readReg _ => true
  | .writeReg _ _ => true
  | .readAddrReg _ len => decide (len < 2 ^ p.lenBits)
  | .writeAddrReg _ len data => data.length == len && decide (len < 2 ^ p.lenBits)
  | .writeTxPayload len data => data.length == len && decide (len < 2 ^ p.lenBits)
  | .flushTx => true
  | .flushRx => true
  | .getStatus => true
  | .getFifoStatus => true
  | .powerUp => true
  | .powerDown => true
  | .enterReceive => true
  | .enterTransmit => true
  | .enterStandby => true
  | .send len data => data.length == len && decide (len < 2 ^ p.lenBits)
  | .receive cap timeout => decide (cap < 2 ^ p.lenBits) && decide (timeout < 2 ^ p.tickBits)

/-- Whether the instruction is a host operation (R89) rather than a bus command (R81–R83). -/
def Instr.isHostOp (i : Instr) : Bool :=
  match i with
  | .rRegister _ _ => false
  | .wRegister _ _ => false
  | .rRxPlWid => false
  | .rRxPayload _ => false
  | .wTxPayload _ => false
  | .cmdFlushTx => false
  | .cmdFlushRx => false
  | .cmdNop => false
  | .readReg _ => true
  | .writeReg _ _ => true
  | .readAddrReg _ _ => true
  | .writeAddrReg _ _ _ => true
  | .writeTxPayload _ _ => true
  | .flushTx => true
  | .flushRx => true
  | .getStatus => true
  | .getFifoStatus => true
  | .powerUp => true
  | .powerDown => true
  | .enterReceive => true
  | .enterTransmit => true
  | .enterStandby => true
  | .send _ _ => true
  | .receive _ _ => true

end Sys2Proof
end

