-- ==== Sys2Proof/Decode.lean ====
section
/-! DEFINITION. The decoder of both instruction levels, total and rejecting by name, and after it the encoder
(frame shapes of R85, request records of R90). -/

namespace Sys2Proof

/-! ## Decoding -/

/-- Why a code is no instruction. -/
inductive Reject where
  /-- The operation code is not in the table of R89 (R92). -/
  | unassignedOpcode (opc : Byte)
  /-- A request that carries data whose length is not `len` (R90). -/
  | malformedRequest
  /-- `NOT_EMITTED`: the command byte is none of R81 to R83 (R86, R87). -/
  | notEmitted (c : Byte)
  /-- The command byte is one of R81 to R83 and the frame has none of its shapes (R85). -/
  | badFrame
deriving DecidableEq, Repr

/-- The eight command bytes by name (R81–R83). -/
inductive CmdOp where
  | rRegister | wRegister | rRxPlWid | rRxPayload | wTxPayload | flushTx | flushRx | nop
deriving DecidableEq, Repr

/-- One row of the command-byte table: `c` is the command when `c & mask = pattern`. -/
structure CmdRow where
  mask : Byte
  pattern : Byte
  op : CmdOp
deriving DecidableEq, Repr

/-- The command bytes in the order R86 tests them. -/
def cmdTable : List CmdRow :=
  [⟨0xE0#8, 0x00#8, .rRegister⟩, ⟨0xE0#8, 0x20#8, .wRegister⟩,
   ⟨0xFF#8, 0x60#8, .rRxPlWid⟩, ⟨0xFF#8, 0x61#8, .rRxPayload⟩, ⟨0xFF#8, 0xA0#8, .wTxPayload⟩,
   ⟨0xFF#8, 0xE1#8, .flushTx⟩, ⟨0xFF#8, 0xE2#8, .flushRx⟩, ⟨0xFF#8, 0xFF#8, .nop⟩]

/-- Whether a command byte falls under a row of the table. -/
def CmdRow.covers (r : CmdRow) (c : Byte) : Bool := c &&& r.mask == r.pattern

/-- Decoding a command byte (R86); `none` is the verdict `NOT_EMITTED`. -/
def decodeCommand (c : Byte) : Option CmdOp :=
  (cmdTable.find? fun r => r.covers c).map CmdRow.op

/-- The register address field `a5 = c[4:0]` of a command byte (R80, R86). -/
def cmdAddr (c : Byte) : BitVec 5 := c.extractLsb' 0 5

/-- A frame of the command byte alone (R85: `WPAY([])`, `FTX`, `FRX`; NOP has no data, R83). -/
def decodeBare (c : Byte) : Except Reject Instr :=
  match decodeCommand c with
  | none => .error (.notEmitted c)
  | some .wTxPayload => .ok (.wTxPayload [])
  | some .flushTx => .ok .cmdFlushTx
  | some .flushRx => .ok .cmdFlushRx
  | some .nop => .ok .cmdNop
  | some .rRegister => .error .badFrame
  | some .wRegister => .error .badFrame
  | some .rRxPlWid => .error .badFrame
  | some .rRxPayload => .error .badFrame

/-- A command byte written and then n bytes read (R85: `RREG1`, `RREG5`, `RWID`). -/
def decodeRead (c : Byte) (n : Nat) : Except Reject Instr :=
  match decodeCommand c with
  | none => .error (.notEmitted c)
  | some .rRegister => if regWidthOk n then .ok (.rRegister (cmdAddr c) n) else .error .badFrame
  | some .rRxPlWid => if n = 1 then .ok .rRxPlWid else .error .badFrame
  | some .wRegister => .error .badFrame
  | some .rRxPayload => .error .badFrame
  | some .wTxPayload => .error .badFrame
  | some .flushTx => .error .badFrame
  | some .flushRx => .error .badFrame
  | some .nop => .error .badFrame

/-- A command byte written and then a data segment written (R85: `WREG1`, `WREG5`, `WPAY(p)` with len ≥ 1). -/
def decodeWrite (c : Byte) (d : List Byte) : Except Reject Instr :=
  match decodeCommand c with
  | none => .error (.notEmitted c)
  | some .wRegister => if regWidthOk d.length then .ok (.wRegister (cmdAddr c) d) else .error .badFrame
  | some .wTxPayload =>
    if 1 ≤ d.length ∧ d.length ≤ Config.maxPayload then .ok (.wTxPayload d) else .error .badFrame
  | some .rRegister => .error .badFrame
  | some .rRxPlWid => .error .badFrame
  | some .rRxPayload => .error .badFrame
  | some .flushTx => .error .badFrame
  | some .flushRx => .error .badFrame
  | some .nop => .error .badFrame

/-- A command byte exchanged and then n bytes read, n = 0 standing for no data segment (R85: `RPAY(w)`). -/
def decodeExchange (c : Byte) (n : Nat) : Except Reject Instr :=
  match decodeCommand c with
  | none => .error (.notEmitted c)
  | some .rRxPayload =>
    if n ≤ Config.maxPayload then .ok (.rRxPayload (BitVec.ofNat 8 n)) else .error .badFrame
  | some .rRegister => .error .badFrame
  | some .wRegister => .error .badFrame
  | some .rRxPlWid => .error .badFrame
  | some .wTxPayload => .error .badFrame
  | some .flushTx => .error .badFrame
  | some .flushRx => .error .badFrame
  | some .nop => .error .badFrame

/-- The shapes of R85, read by their segment kinds. -/
def decodeKinds (ks : List SegKind) : Except Reject Instr :=
  match ks with
  | [.wr [c]] => decodeBare c
  | [.wr [c], .rd n] => decodeRead c n
  | [.wr [c], .wr d] => decodeWrite c d
  | [.xch [c]] => decodeExchange c 0
  | [.xch [c], .rd n] => if n = 0 then .error .badFrame else decodeExchange c n
  | _ => .error .badFrame

/-- No device-select toggle and no delay after a segment (R13). -/
def Seg.isPlain (g : Seg) : Bool := g.toggle == false && g.delay == 0

/-- Decoding a bus frame, as a recording bus or a device double does (R85, R86). -/
def decodeFrame (f : Frame) : Except Reject Instr :=
  if f.all Seg.isPlain then decodeKinds (f.map Seg.kind) else .error .badFrame

/-- A request that carries data is well formed only when `len(data) = len` (R90). -/
def checkData (r : Request) (i : Instr) : Except Reject Instr :=
  if r.data.length = r.len then .ok i else .error .malformedRequest

/-- Decoding a host request by its operation code (R89); the fields an operation does not read are
ignored (R90). -/
def decodeRequest (r : Request) : Except Reject Instr :=
  match r.opc with
  | 0x01#8 => .ok (.readReg r.addr)
  | 0x02#8 => .ok (.writeReg r.addr r.value)
  | 0x03#8 => .ok (.readAddrReg r.addr r.len)
  | 0x04#8 => checkData r (.writeAddrReg r.addr r.len r.data)
  | 0x05#8 => checkData r (.writeTxPayload r.len r.data)
  | 0x06#8 => .ok .flushTx
  | 0x07#8 => .ok .flushRx
  | 0x08#8 => .ok .getStatus
  | 0x09#8 => .ok .getFifoStatus
  | 0x10#8 => .ok .powerUp
  | 0x11#8 => .ok .powerDown
  | 0x12#8 => .ok .enterReceive
  | 0x13#8 => .ok .enterTransmit
  | 0x14#8 => .ok .enterStandby
  | 0x20#8 => checkData r (.send r.len r.data)
  | 0x21#8 => .ok (.receive r.cap r.timeout)
  | opc => .error (.unassignedOpcode opc)

/-- The decoder of both levels. -/
def decode (c : Code) : Except Reject Instr :=
  match c with
  | .frame f => decodeFrame f
  | .request r => decodeRequest r

/-! ## Encoding -/

/-- The address field of a register operation: `a5 = addr & 0x1F` (R84). -/
def regField (addr : Byte) : BitVec 5 := (addr &&& 0x1F#8).setWidth 5

/-- The command byte of format `CMD_REG`: `base | a5` (R84). -/
def regCommand (base : Byte) (a5 : BitVec 5) : Byte := base ||| a5.setWidth 8

/-- `RREG1(a)` and `RREG5(a)` (R85), base 0x00 (R81). -/
def frameReadReg (a5 : BitVec 5) (n : Nat) : Frame := [wr [regCommand 0x00#8 a5], rd n]

/-- `WREG1(a, v)` and `WREG5(a, b)` (R85), base 0x20 (R82). -/
def frameWriteReg (a5 : BitVec 5) (bytes : List Byte) : Frame := [wr [regCommand 0x20#8 a5], wr bytes]

/-- `RWID` (R85). -/
def frameReadWidth : Frame := [wr [0x60#8], rd 1]

/-- `RPAY(w)` (R85): a zero-length data segment is omitted. -/
def frameReadPayload (w : Byte) : Frame :=
  if w = 0#8 then [xch [0x61#8]] else [xch [0x61#8], rd w.toNat]

/-- `WPAY(p)` (R85): a zero-length data segment is omitted. -/
def frameWritePayload (payload : List Byte) : Frame :=
  match payload with
  | [] => [wr [0xA0#8]]
  | b :: bs => [wr [0xA0#8], wr (b :: bs)]

/-- `FTX` (R85). -/
def frameFlushTx : Frame := [wr [0xE1#8]]

/-- `FRX` (R85). -/
def frameFlushRx : Frame := [wr [0xE2#8]]

/-- The frame of the NOP command byte, no data following (R83). The block never issues it (R119). -/
def frameNop : Frame := [wr [0xFF#8]]

/-- The encoder: the frame of a bus command (R85), the request record of a host operation with the fields
it does not read at zero (R89, R90). -/
def encode (i : Instr) : Code :=
  match i with
  | .rRegister a5 n => .frame (frameReadReg a5 n)
  | .wRegister a5 bytes => .frame (frameWriteReg a5 bytes)
  | .rRxPlWid => .frame frameReadWidth
  | .rRxPayload w => .frame (frameReadPayload w)
  | .wTxPayload payload => .frame (frameWritePayload payload)
  | .cmdFlushTx => .frame frameFlushTx
  | .cmdFlushRx => .frame frameFlushRx
  | .cmdNop => .frame frameNop
  | .readReg addr => .request { opc := 0x01#8, addr := addr }
  | .writeReg addr value => .request { opc := 0x02#8, addr := addr, value := value }
  | .readAddrReg addr len => .request { opc := 0x03#8, addr := addr, len := len }
  | .writeAddrReg addr len data => .request { opc := 0x04#8, addr := addr, len := len, data := data }
  | .writeTxPayload len data => .request { opc := 0x05#8, len := len, data := data }
  | .flushTx => .request { opc := 0x06#8 }
  | .flushRx => .request { opc := 0x07#8 }
  | .getStatus => .request { opc := 0x08#8 }
  | .getFifoStatus => .request { opc := 0x09#8 }
  | .powerUp => .request { opc := 0x10#8 }
  | .powerDown => .request { opc := 0x11#8 }
  | .enterReceive => .request { opc := 0x12#8 }
  | .enterTransmit => .request { opc := 0x13#8 }
  | .enterStandby => .request { opc := 0x14#8 }
  | .send len data => .request { opc := 0x20#8, len := len, data := data }
  | .receive cap timeout => .request { opc := 0x21#8, cap := cap, timeout := timeout }

/-! ## The opcode table's words -/

/-- The shortest frame that begins with a command byte, its data bytes zero: what a table word, which has
bits for the command byte alone, stands for (log entry 12). -/
def wordFrame (c : Byte) : Frame :=
  match decodeCommand c with
  | some .rRegister => [wr [c], rd 1]
  | some .wRegister => [wr [c], wr [0#8]]
  | some .rRxPlWid => [wr [c], rd 1]
  | some .rRxPayload => [xch [c]]
  | some .wTxPayload => [wr [c]]
  | some .flushTx => [wr [c]]
  | some .flushRx => [wr [c]]
  | some .nop => [wr [c]]
  | none => [wr [c]]

/-- The instruction of an 8-bit word of the opcode table. The table holds two code spaces of one width
(R3); a word that is an assigned operation code is read as the host operation, every other word as a command
byte (log entry 12). -/
def decodeTableWord (nbits w : Nat) : Option Instr :=
  if nbits = 8 ∧ w < 256 then
    match decode (.request { opc := BitVec.ofNat 8 w }) with
    | .ok i => some i
    | .error _ => (decode (.frame (wordFrame (BitVec.ofNat 8 w)))).toOption
  else none

end Sys2Proof
end

