-- ==== Sys2Proof/Machine/Flags.lean ====
section
/-! DEFINITION. The fields of device bytes the block tests and changes (R27–R29, R88), and the derived mode
(R34). The block has no flags of its own (R33). -/

namespace Sys2Proof.Machine

open Sys2Proof

/-- The address of CONFIG (R26, R27). -/
def configAddr : BitVec 5 := 0x00#5
/-- The address of STATUS (R26, R28). -/
def statusAddr : BitVec 5 := 0x07#5
/-- The address of FIFO_STATUS (R26, R29). -/
def fifoStatusAddr : BitVec 5 := 0x17#5

/-- STATUS.TX_FULL, bit 0 (R28). -/
def txFull (st : Byte) : Bool := st.getLsbD 0
/-- STATUS.RX_PIPE_NO, bits 3:1 (R28, R88). -/
def rxPipeNo (st : Byte) : BitVec 3 := st.extractLsb' 1 3
/-- STATUS.MAX_RT, bit 4 (R28). -/
def maxRt (st : Byte) : Bool := st.getLsbD 4
/-- STATUS.TX_DS, bit 5 (R28). -/
def txDs (st : Byte) : Bool := st.getLsbD 5
/-- STATUS.RX_DR, bit 6 (R28). No operation tests it. -/
def rxDr (st : Byte) : Bool := st.getLsbD 6
/-- FIFO_STATUS.RX_EMPTY, bit 0 (R29). -/
def rxEmpty (fs : Byte) : Bool := fs.getLsbD 0

/-- CONFIG.PRIM_RX, bit 0 (R27). -/
def primRx (cfg : Byte) : Bool := cfg.getLsbD 0
/-- CONFIG.PWR_UP, bit 1 (R27). -/
def pwrUp (cfg : Byte) : Bool := cfg.getLsbD 1

/-- CONFIG with PWR_UP set (R88, R140). -/
def setPwrUp (cfg : Byte) : Byte := cfg ||| 0x02#8
/-- CONFIG with PWR_UP cleared (R88, R141). -/
def clearPwrUp (cfg : Byte) : Byte := cfg &&& 0xFD#8
/-- CONFIG with PRIM_RX set (R88, R142). -/
def setPrimRx (cfg : Byte) : Byte := cfg ||| 0x01#8
/-- CONFIG with PRIM_RX cleared (R88, R143). -/
def clearPrimRx (cfg : Byte) : Byte := cfg &&& 0xFE#8

/-- The byte that clears RX_DR, TX_DS and MAX_RT when written to STATUS (R88, R120). -/
def clearIrqMask : Byte := 0x70#8
/-- The byte that clears TX_DS when written to STATUS (R88, R121). -/
def clearTxDsMask : Byte := 0x20#8

/-- The device's logical modes (R34). -/
inductive Mode where
  | poweredDown | standby | receive | transmit
deriving DecidableEq, Repr

/-- The mode as the cross-product of the power flag and the activity flag (R34): an observation for claims,
which the block never computes. -/
def mode (config : Byte) (ce : Bool) : Mode :=
  if pwrUp config = false then .poweredDown
  else if ce = false then .standby
  else if primRx config then .receive
  else .transmit

end Sys2Proof.Machine
end

