-- ==== Sys2Proof/Machine/State.lean ====
section
/-! DEFINITION. The state of the transceiver access block (R20–R24, R37, R38), of the agents around it as far as
their answers reach it (R8, R31, R232, R234, R235), the reasons a run can stop, and the state after init. -/

namespace Sys2Proof.Machine

open Sys2Proof

/-- Why the block stops for good with a model fault (R229). -/
inductive Fault where
  /-- R_RX_PL_WID answered a width above 32 (R202). Raised by RECEIVE at position `pay`, answered by every later
  step. Safe: the device may do something the model does not say. -/
  | rxWidthInvalid
  /-- A working register that nothing has written in the current operation was read (R24). Raised by any
  operation at a position whose registers are not written; no state that keeps Safety.StateInv reaches one. Safe. -/
  | unwrittenWorkingRegister
  /-- The sequencer stands at a position the operation's pseudocode does not have. Not the spec's: it makes
  exec total on states no run reaches (log entry 8). Raised by exec. Safe. -/
  | noSuchPosition
deriving DecidableEq, Repr

/-- Why the model refuses to go on (R229). -/
inductive Refusal where
  /-- An instruction without a meaning yet. Raised by an arm of exec only. Safe. No arm raises it. -/
  | notModelled (mnemonic : String)
  /-- A request arrived while `phase ≠ Idle` (R234). Raised by the sequencer, answered by every later step. Safe. -/
  | reentrant
  /-- A request that is not well formed: `len(data) ≠ len` in a request that carries data (R90), or a field
  that its width cannot express (R174 f; log entry 11). Raised by the sequencer, answered by every later
  step. Safe. -/
  | malformedRequest
deriving DecidableEq, Repr

/-- The results of an operation (R220); their 8-bit codes (R91) are resultCode of Ops. -/
inductive Result where
  | ok | invalidArgument | busError | deviceBusy | timeout
deriving DecidableEq, Repr

/-- A response (R95). A field that holds no value in this response is `none`. -/
structure Response where
  result : Result
  value : Option Byte := none
  data : Option (List Byte) := none
  pipe : Option (BitVec 3) := none
  size : Option (BitVec 6) := none
deriving DecidableEq, Repr

/-- The answer to a bus transaction: the received bytes in segment order, or a bus error (R13, R20). -/
inductive BusAnswer where
  | ok (rx : List Byte)
  | err
deriving DecidableEq, Repr

/-- An entry of the event history (R37): one per step of the block (R12). -/
inductive Event where
  | request (r : Request)
  | bus (f : Frame) (a : BusAnswer)
  | pin (level : Bool)
  | tick (reading : Nat)
  | yield
  | response (r : Response)
deriving DecidableEq, Repr

/-- The positions of the sequencer (R22). A position stands after one primitive action and before the local
computation that leads to the next one (R12; log entry 7). Where the pseudocode writes a label, the position
carries its name. -/
inductive Label where
  /-- Right after the request is accepted. -/
  | entry
  /-- After a transaction answered `Err`: `raise BusError` follows (R14). -/
  | fail
  /-- `return Ok(...)` follows. -/
  | ret
  /-- After the CONFIG read of a mode transition: the write follows (`w` of R140–R143). -/
  | w
  /-- After the CONFIG write of ENTER_RECEIVE and ENTER_TRANSMIT: the pin write follows (`p` of R142, R143). -/
  | p
  /-- SEND after its first STATUS read: the TX_FULL test and ENTER_TRANSMIT's CONFIG read follow (`etx`, R161). -/
  | etx
  /-- SEND inside ENTER_TRANSMIT: the CONFIG write follows (R162). -/
  | etw
  /-- SEND inside ENTER_TRANSMIT: the pin write follows (R162). -/
  | etp
  /-- SEND after ENTER_TRANSMIT: `off <- 0` and the loop head follow (`chunk`, R163). -/
  | chunk
  /-- Before the first poll read: of a chunk in SEND (`poll`, R165), of the whole loop in RECEIVE (`poll`, R193). -/
  | poll
  /-- After a poll read: its tests follow (R165, R193). -/
  | test
  /-- SEND after the TX_DS clear: `off <- off + n` and the loop head follow (R167). -/
  | ack
  /-- Inside `Yield()`, waiting for the hook to return; the next poll read follows (`yld`, R235, R237). -/
  | yld
  /-- SEND on the recovery path after the flag clear: FLUSH_TX follows (R166). -/
  | flush
  /-- SEND on the recovery path after the flush: the pin write follows (R166). -/
  | standby
  /-- SEND on the recovery path after the pin write: `raise Timeout` follows (R166). -/
  | timeout
  /-- RECEIVE after its first tick reading: ENTER_RECEIVE's CONFIG read follows (`erx`, R193). -/
  | erx
  /-- RECEIVE inside ENTER_RECEIVE: the CONFIG write follows. -/
  | erw
  /-- RECEIVE inside ENTER_RECEIVE: the pin write follows. -/
  | erp
  /-- RECEIVE after the tick reading of an empty poll: the deadline test follows (R194). -/
  | deadline
  /-- RECEIVE after the width read: the width test and the payload read follow (`pay`, R196, R202). -/
  | pay
  /-- RECEIVE after the payload read: the pin write follows (`sby`, R197). -/
  | sby
deriving DecidableEq, Repr

/-- The sequencer position (R22). -/
inductive Phase where
  /-- Waiting for a request. -/
  | idle
  /-- A request with an unassigned operation code was accepted: InvalidArgument follows (R92). -/
  | illegal (opc : Byte)
  /-- The instruction in progress, with the operands captured when it was accepted (R73), and the position. -/
  | busy (op : Instr) (label : Label)
deriving DecidableEq, Repr

/-- The working registers (R23). `none` is the spec's own "holds no value" (R24). `off`, `t0` and `now` are of
parameter width and held as numbers. -/
structure Work where
  cfg : Option Byte := none
  st : Option Byte := none
  fs : Option Byte := none
  off : Option Nat := none
  n : Option (BitVec 6) := none
  polls : Option Nat := none
  t0 : Option Nat := none
  now : Option Nat := none
  w : Option Byte := none
  s : Option Byte := none
  pipe : Option (BitVec 3) := none
  rd : Option (List Byte) := none
deriving DecidableEq, Repr

/-- No working register holds a value (R24). -/
def Work.empty : Work := {}

/-- What the host does at its request interface between two steps (R8 b, R234; log entry 5). -/
inductive HostAct where
  /-- A synchronous call: the host keeps the protocol and its request is taken when the block is Idle. -/
  | call (r : Request)
  /-- A request put to the block at once, whatever its phase: from a second thread of control that is not
  serialized. -/
  | intrude (r : Request)
  /-- Nothing is requested before this step. -/
  | pass
deriving DecidableEq, Repr

/-- What the agents around the block have in store, as plain data: scripted answers that are taken first, and
counters that index the opaque constants of Config once a script is used up (log entries 3 to 6). -/
structure Env where
  /-- Answers of the device oracle to the coming bus transactions. -/
  bus : List BusAnswer
  /-- Bus transactions answered so far. -/
  busCount : Nat
  /-- The underlying tick count at the last reading (R232). -/
  tick : Nat
  /-- How far the count moves before each coming reading. -/
  tickSteps : List Nat
  /-- Tick readings answered so far. -/
  tickReads : Nat
  /-- Whether the hook has returned, at each coming look at it (R235). -/
  hook : List Bool
  /-- Looks at the hook so far. -/
  hookLooks : Nat
  /-- What the host does, in order. -/
  host : List HostAct
deriving DecidableEq, Repr

/-- The host's output buffer (R60 c, R73): cells of (index, byte), indices strictly rising. An index not listed
has not been written by the block and has no value. -/
abbrev Memory := List Host.Cell

/-- The canonical form: indices strictly rise. An unlisted index has no value, so no cell can equal what an
unlisted one reads as. -/
abbrev Memory.wf (m : Memory) : Prop := m.Pairwise fun x y => x.1 < y.1

/-- The state of the machine. -/
structure State where
  /-- The configuration bound by init (R38, R260). No step changes it. -/
  handle : Handle
  /-- The parameters (R9). No step changes them. -/
  par : Params
  /-- The chip-enable output latch (R21). -/
  ce : Bool
  /-- The sequencer position (R22). -/
  phase : Phase
  /-- The working registers (R23). -/
  work : Work
  /-- The host's output buffer (R73). -/
  out : Memory
  /-- The event history, oldest first (R37). -/
  history : List Event
  /-- The model-fault mark (R37). -/
  faultMark : Option Fault
  /-- The refusal mark (R37). -/
  refusalMark : Option Refusal
  /-- The agents around the block (R8). -/
  env : Env
deriving DecidableEq, Repr

/-- No scripts and no host request; the tick source stands at the given count. -/
def Env.fresh (tick : Nat) : Env :=
  { bus := [], busCount := 0, tick := tick, tickSteps := [], tickReads := 0, hook := [], hookLooks := 0,
    host := [] }

/-- `init` (R260): it binds the configuration and the parameters and performs no I/O. The chip-enable level is
whatever the pin presented before (R261). -/
def State.init (handle : Handle) (par : Params) (ce : Bool) (env : Env) : State :=
  { handle := handle, par := par, ce := ce, phase := .idle, work := Work.empty, out := [], history := [],
    faultMark := none, refusalMark := none, env := env }

/-- The machine right after init (R38), with the default parameters of R9. What R38 leaves unspecified is an
opaque constant of Config. -/
def State.reset : State :=
  State.init Config.handle Params.default Config.ceAtInit (Env.fresh Config.tickAtInit)

/-- The step outcomes of this machine. -/
abbrev Out := Host.Outcome State Fault Refusal

end Sys2Proof.Machine
end

