-- ==== Sys2Proof/Machine/Operands.lean ====
section
/-! DEFINITION. The operand forms: slices of a request's input buffer (R64, R73), the chunk of SEND (R163), the
elapsed time of RECEIVE (R194), and the parts of an R_RX_PAYLOAD answer (R123). -/

namespace Sys2Proof.Machine

open Sys2Proof

/-- `MemRead(buf, i, n)`: the bytes `buf[i .. i+n)` (R11, R73). -/
def bufSlice (buf : List Byte) (i n : Nat) : List Byte := (buf.drop i).take n

/-- The length of the next chunk of SEND: `min(32, len - off)` (R163). -/
def chunkLen (len off : Nat) : Nat := min Config.maxPayload (len - off)

/-- Elapsed ticks: `(now - t0) mod 2^TICK_BITS`, computed exactly on integers (R194). -/
def elapsed (tickBits t0 now : Nat) : Nat := (((now : Int) - (t0 : Int)) % ((2 : Int) ^ tickBits)).toNat

/-- Whether the deadline has passed at this reading (R194). -/
def deadlinePassed (tickBits t0 now timeout : Nat) : Bool := decide (timeout ≤ elapsed tickBits t0 now)

/-- The payload part `rd[1 .. 1 + w)` of an R_RX_PAYLOAD answer (R123). -/
def payloadBytes (rx : List Byte) (w : Byte) : List Byte := bufSlice rx 1 w.toNat

/-- `s <- rd[0]; pipe <- s[3:1]`: the STATUS byte exchanged with the command byte, and its pipe number, which
is not validated (R123, R196). -/
def unpackStatus (rx : List Byte) (r : Work) : Work := { r with s := rx[0]?, pipe := rx[0]?.map rxPipeNo }

end Sys2Proof.Machine
end

