-- ==== Sys2Proof/Machine/Ops.lean ====
section
/-! DEFINITION. The primitive actions of the block (R11–R16) over State, the host output buffer, the model-fault and
refusal marks, and the two ways an operation ends: `raise E` (R226, the block's exception entry) and
`return Ok(...)`. There is no return from an error (R227): the next request starts afresh from Idle. -/

namespace Sys2Proof.Machine

open Sys2Proof

/-! ## The host output buffer (R73) -/

/-- The byte the block has written at an index; `none` where it has written nothing. -/
def Memory.read (m : Memory) (a : Nat) : Option Byte :=
  match m with
  | [] => none
  | (x, b) :: rest => if a = x then some b else Memory.read rest a

/-- Write one byte, keeping the canonical form. -/
def Memory.write (m : Memory) (a : Nat) (v : Byte) : Memory :=
  match m with
  | [] => [(a, v)]
  | (x, b) :: rest =>
    if a < x then (a, v) :: (x, b) :: rest
    else if a = x then (a, v) :: rest
    else (x, b) :: Memory.write rest a v

/-- `MemWrite(out, a, bytes)`: the bytes in index order from a on (R11, R64, R73). -/
def Memory.writeBytes (m : Memory) (a : Nat) (bytes : List Byte) : Memory :=
  match bytes with
  | [] => m
  | b :: bs => Memory.writeBytes (m.write a b) (a + 1) bs

/-! ## Sequencer and history -/

/-- Where an instruction stands: `entry` when it is not in progress (R22). -/
def State.pos (s : State) : Label :=
  match s.phase with
  | .idle => .entry
  | .illegal _ => .entry
  | .busy _ l => l

/-- Move the sequencer to a position of the instruction (R22). -/
def State.goto (i : Instr) (l : Label) (s : State) : State := { s with phase := .busy i l }

/-- Set the working registers (R23). -/
def State.setWork (r : Work) (s : State) : State := { s with work := r }

/-- Append an event to the history (R37). -/
def State.record (e : Event) (s : State) : State := { s with history := s.history ++ [e] }

/-! ## Model faults and refusals (R229): recorded in the mark, the first one kept, never cleared (R37) -/

/-- `fault F` (R11): the step that records a model fault. -/
def recordFault (f : Fault) (s : State) : Out := .next { s with faultMark := s.faultMark.or (some f) }

/-- The step that records a refusal. -/
def recordRefusal (r : Refusal) (s : State) : Out := .next { s with refusalMark := s.refusalMark.or (some r) }

/-- Read a working register; one that holds no value is a model fault (R24). -/
def need {α : Type} (r : Option α) (s : State) (k : α → Out) : Out :=
  match r with
  | some v => k v
  | none => recordFault .unwrittenWorkingRegister s

/-! ## BusTxn (R13, R14, R31) -/

/-- How many bytes a segment receives (R13). -/
def Seg.rxLen (g : Seg) : Nat :=
  match g.kind with
  | .wr _ => 0
  | .rd n => n
  | .xch bytes => bytes.length

/-- How many bytes a transaction receives: those of its `Rd` and `Xch` segments (R13). -/
def rxCount (f : Frame) : Nat := (f.map Seg.rxLen).sum

/-- Exactly n received bytes: the given ones, cut or filled up with free bytes of transaction k, for the only
law of the oracle is the shape of its answer (R31; log entry 4). -/
def fitAnswer (k n : Nat) (bytes : List Byte) : List Byte :=
  (List.range n).map fun i => bytes.getD i (Config.busByte k i)

/-- The device oracle's answer to the next transaction (R31). -/
def Env.busAnswer (e : Env) (f : Frame) : BusAnswer :=
  match e.bus with
  | .ok bytes :: _ => .ok (fitAnswer e.busCount (rxCount f) bytes)
  | .err :: _ => .err
  | [] => if Config.busFails e.busCount then .err else .ok (fitAnswer e.busCount (rxCount f) [])

/-- The environment after it has answered a transaction. -/
def Env.popBus (e : Env) : Env := { e with bus := e.bus.tail, busCount := e.busCount + 1 }

/-- The state after a transaction was issued and answered, its event recorded. -/
def State.afterBus (f : Frame) (s : State) : State :=
  { s with env := s.env.popBus, history := s.history ++ [.bus f (s.env.busAnswer f)] }

/-- What an instruction makes of an answer: `Ok(rx)` is bound and the next position taken, `Err` leads to
`raise BusError` (R11, R14). -/
def settle (i : Instr) (next : Label) (keep : List Byte → Work → Work) (a : BusAnswer) (s : State) : State :=
  match a with
  | .ok rx => { s with work := keep rx s.work, phase := .busy i next }
  | .err => { s with phase := .busy i .fail }

/-- `v <- BusTxn(f)?`: one framed transaction, one step (R12, R69). -/
def transact (i : Instr) (f : Frame) (next : Label) (keep : List Byte → Work → Work) (s : State) : Out :=
  .next (settle i next keep (s.env.busAnswer f) (s.afterBus f))

/-- For a transaction whose received bytes the instruction does not use. -/
def keepNothing (_rx : List Byte) (r : Work) : Work := r

/-! ## PinWrite (R16, R21) -/

/-- `PinWrite(CE, v)`: it cannot fail. -/
def State.pinWrite (level : Bool) (s : State) : State :=
  { s with ce := level, history := s.history ++ [.pin level] }

/-- A pin write as the step of an instruction. -/
def drivePin (i : Instr) (level : Bool) (next : Label) (s : State) : Out :=
  .next ((s.pinWrite level).goto i next)

/-! ## TickRead (R232) -/

/-- The underlying count at the next reading: it never decreases. -/
def Env.nextTick (e : Env) : Nat :=
  match e.tickSteps with
  | d :: _ => e.tick + d
  | [] => e.tick + Config.tickAdvance e.tickReads

/-- The value the next reading returns: the count modulo `2^TICK_BITS`. -/
def State.tickReading (s : State) : Nat := s.env.nextTick % 2 ^ s.par.tickBits

/-- The state after a tick reading. -/
def State.tickRead (s : State) : State :=
  { s with
    env := { s.env with tick := s.env.nextTick, tickSteps := s.env.tickSteps.tail, tickReads := s.env.tickReads + 1 }
    history := s.history ++ [.tick s.tickReading] }

/-! ## Yield (R235) -/

/-- `Yield()`: the hook is invoked, and the block waits in it (R237). -/
def yieldStep (i : Instr) (s : State) : Out := .next ((s.record .yield).goto i .yld)

/-- Whether the hook has returned (log entry 6). -/
def Env.hookReturned (e : Env) : Bool :=
  match e.hook with
  | b :: _ => b
  | [] => Config.hookReturns e.hookLooks

/-- The state after a look at the hook. -/
def State.popHook (s : State) : State :=
  { s with env := { s.env with hook := s.env.hook.tail, hookLooks := s.env.hookLooks + 1 } }

/-- In `Yield`: nothing happens until the hook has returned, then the next action follows. A hook that never
returns keeps the block here for ever (R235). -/
def awaitHook (s : State) (resume : State → Out) : Out :=
  if s.env.hookReturned then resume s.popHook else .next s.popHook

/-! ## The end of an operation -/

/-- The result codes (R91). -/
def resultCode (r : Result) : Byte :=
  match r with
  | .ok => 0x00#8
  | .invalidArgument => 0x01#8
  | .busError => 0x02#8
  | .deviceBusy => 0x03#8
  | .timeout => 0x04#8

/-- Delivering a response (R12, R73, R226): the output bytes, if the response has any, are placed at the start of the
output buffer, the sequencer returns to Idle, and the working registers lose their values (R24). -/
def State.deliver (r : Response) (s : State) : State :=
  { s with
    phase := .idle
    work := Work.empty
    out := s.out.writeBytes 0 (r.data.getD [])
    history := s.history ++ [.response r] }

/-- `raise E` (R11, R226): the exception entry of this block. An error response carries the code alone (R95), and
nothing else is saved, rolled back or changed. -/
def raise (e : Result) (s : State) : Out := .next (s.deliver { result := e })

/-- `return Ok(...)` (R11). -/
def returnOk (r : Response) (s : State) : Out := .next (s.deliver r)

/-- A position the instruction's pseudocode does not have (log entry 8). -/
def noPosition (s : State) : Out := recordFault .noSuchPosition s

end Sys2Proof.Machine
end

