-- ==== Sys2Proof/Machine/MicroOps.lean ====
section
/-! DEFINITION. The sub-sequences that several operations share: single-register transactions (R11), the internal
micro-operations (R120–R123) and the actions of a mode transition (R140–R144). -/

namespace Sys2Proof.Machine

open Sys2Proof

/-- `RegRead(a)`: one `RREG1` frame (R110). -/
def regRead (i : Instr) (a5 : BitVec 5) (next : Label) (keep : List Byte → Work → Work) (s : State) : Out :=
  transact i (frameReadReg a5 1) next keep s

/-- `RegWrite(a, v)`: one `WREG1` frame (R111). -/
def regWrite (i : Instr) (a5 : BitVec 5) (v : Byte) (next : Label) (s : State) : Out :=
  transact i (frameWriteReg a5 [v]) next keepNothing s

/-- `cfg <- rx[0]`. -/
def keepCfg (rx : List Byte) (r : Work) : Work := { r with cfg := rx[0]? }
/-- `st <- rx[0]`. -/
def keepSt (rx : List Byte) (r : Work) : Work := { r with st := rx[0]? }
/-- `fs <- rx[0]`. -/
def keepFs (rx : List Byte) (r : Work) : Work := { r with fs := rx[0]? }
/-- `w <- rx[0]`. -/
def keepW (rx : List Byte) (r : Work) : Work := { r with w := rx[0]? }
/-- `rd <- rx`. -/
def keepRd (rx : List Byte) (r : Work) : Work := { r with rd := some rx }

/-- A fresh CONFIG read (R145). -/
def readConfig (i : Instr) (next : Label) (s : State) : Out := regRead i configAddr next keepCfg s
/-- A fresh STATUS read (R117). -/
def readStatus (i : Instr) (next : Label) (s : State) : Out := regRead i statusAddr next keepSt s
/-- A fresh FIFO_STATUS read (R118). -/
def readFifoStatus (i : Instr) (next : Label) (s : State) : Out := regRead i fifoStatusAddr next keepFs s

/-- The CONFIG write of a mode transition: the byte its own read returned, with one bit changed (R145). -/
def writeConfig (i : Instr) (change : Byte → Byte) (next : Label) (s : State) : Out :=
  need s.work.cfg s fun cfg => regWrite i configAddr (change cfg) next s

/-- CLEAR_IRQ (R120). -/
def clearIrq (i : Instr) (next : Label) (s : State) : Out := regWrite i statusAddr clearIrqMask next s
/-- CLEAR_TX_DS (R121). -/
def clearTxDs (i : Instr) (next : Label) (s : State) : Out := regWrite i statusAddr clearTxDsMask next s
/-- READ_RX_PL_WID (R122). -/
def readRxPlWid (i : Instr) (next : Label) (s : State) : Out := transact i frameReadWidth next keepW s
/-- READ_RX_PAYLOAD (R123), its answer kept whole. -/
def readRxPayload (i : Instr) (w : Byte) (next : Label) (s : State) : Out :=
  transact i (frameReadPayload w) next keepRd s

end Sys2Proof.Machine
end

