-- ==== Sys2Proof/Machine/BusCommands.lean ====
section
/-! DEFINITION. The bus commands (R80–R83, R85). No host operation code selects one: they are what the operations
are made of. Placed at the sequencer by itself, a command is one transaction of its frame, whose result stands in
the working registers at position `ret` as the operation that issued it would read it; with no operation to
return to, the sequencer then goes back to Idle (log entry 9). -/

namespace Sys2Proof.Machine

open Sys2Proof

/-- The end of a bus command that no operation issued: no request, so no response (log entry 9). -/
def endCommand (s : State) : Out := .next { s with phase := .idle, work := Work.empty }

/-- R_REGISTER (R81, R85). -/
def execRRegister (a5 : BitVec 5) (n : Nat) (s : State) : Out :=
  match s.pos with
  | .entry => transact (.rRegister a5 n) (frameReadReg a5 n) .ret keepRd s
  | .ret => endCommand s
  | .fail => endCommand s
  | _ => noPosition s

/-- W_REGISTER (R82, R85). -/
def execWRegister (a5 : BitVec 5) (bytes : List Byte) (s : State) : Out :=
  match s.pos with
  | .entry => transact (.wRegister a5 bytes) (frameWriteReg a5 bytes) .ret keepNothing s
  | .ret => endCommand s
  | .fail => endCommand s
  | _ => noPosition s

/-- R_RX_PL_WID (R122). -/
def execRRxPlWid (s : State) : Out :=
  match s.pos with
  | .entry => readRxPlWid .rRxPlWid .ret s
  | .ret => endCommand s
  | .fail => endCommand s
  | _ => noPosition s

/-- The registers READ_RX_PAYLOAD leaves: `rd`, `s` and `pipe` (R123). -/
def keepPayload (rx : List Byte) (r : Work) : Work := unpackStatus rx (keepRd rx r)

/-- R_RX_PAYLOAD (R123). -/
def execRRxPayload (w : Byte) (s : State) : Out :=
  match s.pos with
  | .entry => transact (.rRxPayload w) (frameReadPayload w) .ret keepPayload s
  | .ret => endCommand s
  | .fail => endCommand s
  | _ => noPosition s

/-- W_TX_PAYLOAD (R83, R85). -/
def execWTxPayload (payload : List Byte) (s : State) : Out :=
  match s.pos with
  | .entry => transact (.wTxPayload payload) (frameWritePayload payload) .ret keepNothing s
  | .ret => endCommand s
  | .fail => endCommand s
  | _ => noPosition s

/-- FLUSH_TX, the command byte 0xE1 (R83, R85). -/
def execCmdFlushTx (s : State) : Out :=
  match s.pos with
  | .entry => transact .cmdFlushTx frameFlushTx .ret keepNothing s
  | .ret => endCommand s
  | .fail => endCommand s
  | _ => noPosition s

/-- FLUSH_RX, the command byte 0xE2 (R83, R85). -/
def execCmdFlushRx (s : State) : Out :=
  match s.pos with
  | .entry => transact .cmdFlushRx frameFlushRx .ret keepNothing s
  | .ret => endCommand s
  | .fail => endCommand s
  | _ => noPosition s

/-- NOP: the block never emits 0xFF (R119), so there is no transaction and no effect (R72); the sequencer only
moves on (log entry 10). -/
def execCmdNop (s : State) : Out :=
  match s.pos with
  | .entry => .next (s.goto .cmdNop .ret)
  | .ret => endCommand s
  | .fail => endCommand s
  | _ => noPosition s

end Sys2Proof.Machine
end

