-- ==== Sys2Proof/Machine/ModeControl.lean ====
section
/-! DEFINITION. The mode state machine (R140–R149): read-modify-write of CONFIG, and the pin write last. -/

namespace Sys2Proof.Machine

open Sys2Proof

/-- POWER_UP (R140). -/
def execPowerUp (s : State) : Out :=
  match s.pos with
  | .entry => readConfig .powerUp .w s
  | .w => writeConfig .powerUp setPwrUp .ret s
  | .ret => returnOk { result := .ok } s
  | .fail => raise .busError s
  | _ => noPosition s

/-- POWER_DOWN (R141). -/
def execPowerDown (s : State) : Out :=
  match s.pos with
  | .entry => readConfig .powerDown .w s
  | .w => writeConfig .powerDown clearPwrUp .ret s
  | .ret => returnOk { result := .ok } s
  | .fail => raise .busError s
  | _ => noPosition s

/-- ENTER_RECEIVE (R142). -/
def execEnterReceive (s : State) : Out :=
  match s.pos with
  | .entry => readConfig .enterReceive .w s
  | .w => writeConfig .enterReceive setPrimRx .p s
  | .p => drivePin .enterReceive true .ret s
  | .ret => returnOk { result := .ok } s
  | .fail => raise .busError s
  | _ => noPosition s

/-- ENTER_TRANSMIT (R143). -/
def execEnterTransmit (s : State) : Out :=
  match s.pos with
  | .entry => readConfig .enterTransmit .w s
  | .w => writeConfig .enterTransmit clearPrimRx .p s
  | .p => drivePin .enterTransmit true .ret s
  | .ret => returnOk { result := .ok } s
  | .fail => raise .busError s
  | _ => noPosition s

/-- ENTER_STANDBY (R144): no device register is read or written. -/
def execEnterStandby (s : State) : Out :=
  match s.pos with
  | .entry => drivePin .enterStandby false .ret s
  | .ret => returnOk { result := .ok } s
  | _ => noPosition s

end Sys2Proof.Machine
end

