-- ==== Sys2Proof/Machine/Receive.lean ====
section
/-! DEFINITION. The packet receive timeout and status poller: RECEIVE (R190–R203). -/

namespace Sys2Proof.Machine

open Sys2Proof

/-- The tests after a FIFO_STATUS read (R193, R194): data pending, then the width is read (R195); else a tick
reading when there is a deadline, else a yield. -/
def receiveTest (cap timeout : Nat) (fs : Byte) (s : State) : Out :=
  if rxEmpty fs then
    if timeout = 0 then yieldStep (.receive cap timeout) s
    else .next
      ((s.tickRead.setWork { s.work with now := some s.tickReading }).goto (.receive cap timeout) .deadline)
  else readRxPlWid (.receive cap timeout) .pay s

/-- RECEIVE (R190). -/
def execReceive (cap timeout : Nat) (s : State) : Out :=
  match s.pos with
  | .entry =>
    if cap < Config.rxCapMin then raise .invalidArgument s
    else .next
      ((s.tickRead.setWork { s.work with t0 := some s.tickReading }).goto (.receive cap timeout) .erx)
  | .erx => readConfig (.receive cap timeout) .erw s
  | .erw => writeConfig (.receive cap timeout) setPrimRx .erp s
  | .erp => drivePin (.receive cap timeout) true .poll s
  | .poll => readFifoStatus (.receive cap timeout) .test s
  | .test => need s.work.fs s fun fs => receiveTest cap timeout fs s
  | .deadline => need s.work.t0 s fun t0 => need s.work.now s fun now =>
      if deadlinePassed s.par.tickBits t0 now timeout then raise .timeout s
      else yieldStep (.receive cap timeout) s
  | .yld => awaitHook s fun s => readFifoStatus (.receive cap timeout) .test s
  | .pay => need s.work.w s fun w =>
      if w.toNat ≤ Config.maxPayload then readRxPayload (.receive cap timeout) w .sby s
      else recordFault .rxWidthInvalid s
  | .sby => need s.work.rd s fun rx =>
      drivePin (.receive cap timeout) false .ret (s.setWork (unpackStatus rx s.work))
  | .ret => need s.work.w s fun w => need s.work.rd s fun rx => need s.work.pipe s fun pipe =>
      returnOk
        { result := .ok, pipe := some pipe, size := some (w.setWidth 6), data := some (payloadBytes rx w) } s
  | .fail => raise .busError s
  | _ => noPosition s

end Sys2Proof.Machine
end

