-- ==== Sys2Proof/Machine/RegisterAccess.lean ====
section
/-! DEFINITION. The host operations of the register-access encoder (R110–R118). -/

namespace Sys2Proof.Machine

open Sys2Proof

/-- READ_REG (R110). The address is not checked (R84). -/
def execReadReg (addr : Byte) (s : State) : Out :=
  match s.pos with
  | .entry => regRead (.readReg addr) (regField addr) .ret keepRd s
  | .ret => need s.work.rd s fun rx => returnOk { result := .ok, value := rx[0]? } s
  | .fail => raise .busError s
  | _ => noPosition s

/-- WRITE_REG (R111). -/
def execWriteReg (addr value : Byte) (s : State) : Out :=
  match s.pos with
  | .entry => regWrite (.writeReg addr value) (regField addr) value .ret s
  | .ret => returnOk { result := .ok } s
  | .fail => raise .busError s
  | _ => noPosition s

/-- READ_ADDR_REG (R112): the length is checked before any I/O (R225). -/
def execReadAddrReg (addr : Byte) (len : Nat) (s : State) : Out :=
  match s.pos with
  | .entry =>
    if len = Config.addrRegLen then
      transact (.readAddrReg addr len) (frameReadReg (regField addr) Config.addrRegLen) .ret keepRd s
    else raise .invalidArgument s
  | .ret => need s.work.rd s fun rx =>
      returnOk { result := .ok, data := some (bufSlice rx 0 Config.addrRegLen) } s
  | .fail => raise .busError s
  | _ => noPosition s

/-- WRITE_ADDR_REG (R113): another length is rejected, not truncated. -/
def execWriteAddrReg (addr : Byte) (len : Nat) (data : List Byte) (s : State) : Out :=
  match s.pos with
  | .entry =>
    if len = Config.addrRegLen then
      transact (.writeAddrReg addr len data)
        (frameWriteReg (regField addr) (bufSlice data 0 Config.addrRegLen)) .ret keepNothing s
    else raise .invalidArgument s
  | .ret => returnOk { result := .ok } s
  | .fail => raise .busError s
  | _ => noPosition s

/-- WRITE_TX_PAYLOAD (R114): more than 32 bytes are rejected before any I/O; TX_FULL is not checked. -/
def execWriteTxPayload (len : Nat) (data : List Byte) (s : State) : Out :=
  match s.pos with
  | .entry =>
    if len ≤ Config.maxPayload then
      transact (.writeTxPayload len data) (frameWritePayload (bufSlice data 0 len)) .ret keepNothing s
    else raise .invalidArgument s
  | .ret => returnOk { result := .ok } s
  | .fail => raise .busError s
  | _ => noPosition s

/-- FLUSH_TX, the host operation (R115). -/
def execFlushTx (s : State) : Out :=
  match s.pos with
  | .entry => transact .flushTx frameFlushTx .ret keepNothing s
  | .ret => returnOk { result := .ok } s
  | .fail => raise .busError s
  | _ => noPosition s

/-- FLUSH_RX, the host operation (R116). -/
def execFlushRx (s : State) : Out :=
  match s.pos with
  | .entry => transact .flushRx frameFlushRx .ret keepNothing s
  | .ret => returnOk { result := .ok } s
  | .fail => raise .busError s
  | _ => noPosition s

/-- GET_STATUS (R117): the snapshot is returned and not kept (R25). -/
def execGetStatus (s : State) : Out :=
  match s.pos with
  | .entry => readStatus .getStatus .ret s
  | .ret => need s.work.st s fun st => returnOk { result := .ok, value := some st } s
  | .fail => raise .busError s
  | _ => noPosition s

/-- GET_FIFO_STATUS (R118). -/
def execGetFifoStatus (s : State) : Out :=
  match s.pos with
  | .entry => readFifoStatus .getFifoStatus .ret s
  | .ret => need s.work.fs s fun fs => returnOk { result := .ok, value := some fs } s
  | .fail => raise .busError s
  | _ => noPosition s

end Sys2Proof.Machine
end

