-- ==== Sys2Proof/Machine/Transmit.lean ====
section
/-! DEFINITION. The packet transmit retry engine: SEND (R160–R174). -/

namespace Sys2Proof.Machine

open Sys2Proof

/-- The loop head (R163): the next chunk's payload write (R164), or, past the last chunk, the pin write of the
completion (R169). -/
def sendLoop (len : Nat) (data : List Byte) (off : Nat) (s : State) : Out :=
  if off < len then
    transact (.send len data) (frameWritePayload (bufSlice data off (chunkLen len off))) .poll keepNothing
      (s.setWork { s.work with off := some off, n := some (BitVec.ofNat 6 (chunkLen len off)) })
  else drivePin (.send len data) false .ret (s.setWork { s.work with off := some off })

/-- An acknowledged chunk: `off` moves past it, and the loop goes on (R167). -/
def sendNext (len : Nat) (data : List Byte) (s : State) : Out :=
  need s.work.off s fun off => need s.work.n s fun n => sendLoop len data (off + n.toNat) s

/-- Whether the poll bound is reached (R168). -/
def pollLimitReached (p : Params) (polls : Nat) : Bool :=
  match p.txPollLimit with
  | none => false
  | some l => decide (l ≤ polls)

/-- The tests after the poll read that brought the count to `polls` (R165): MAX_RT, then TX_DS, then the bound,
else a yield. -/
def sendTest (len : Nat) (data : List Byte) (st : Byte) (polls : Nat) (s : State) : Out :=
  if maxRt st then clearIrq (.send len data) .flush s
  else if txDs st then
    if s.par.clearTxDs then clearTxDs (.send len data) .ack s else sendNext len data s
  else if pollLimitReached s.par polls then clearIrq (.send len data) .flush s
  else yieldStep (.send len data) s

/-- SEND (R160). -/
def execSend (len : Nat) (data : List Byte) (s : State) : Out :=
  match s.pos with
  | .entry => readStatus (.send len data) .etx s
  | .etx => need s.work.st s fun st =>
      if txFull st then raise .deviceBusy s else readConfig (.send len data) .etw s
  | .etw => writeConfig (.send len data) clearPrimRx .etp s
  | .etp => drivePin (.send len data) true .chunk s
  | .chunk => sendLoop len data 0 s
  | .poll => readStatus (.send len data) .test (s.setWork { s.work with polls := some 0 })
  | .test => need s.work.st s fun st => need s.work.polls s fun polls =>
      sendTest len data st (polls + 1) (s.setWork { s.work with polls := some (polls + 1) })
  | .ack => sendNext len data s
  | .yld => awaitHook s fun s => readStatus (.send len data) .test s
  | .flush => transact (.send len data) frameFlushTx .standby keepNothing s
  | .standby => drivePin (.send len data) false .timeout s
  | .timeout => raise .timeout s
  | .ret => returnOk { result := .ok } s
  | .fail => raise .busError s
  | _ => noPosition s

end Sys2Proof.Machine
end

