-- ==== Sys2Proof/Machine/Dispatch.lean ====
section
/-! DEFINITION. One step of an instruction at its sequencer position (R12, R22): one arm per constructor. -/

namespace Sys2Proof.Machine

open Sys2Proof

def exec (i : Instr) (s : State) : Host.Outcome State Fault Refusal :=
  match i with
  | .rRegister a5 n => Sys2Proof.Machine.execRRegister a5 n s
  | .wRegister a5 bytes => Sys2Proof.Machine.execWRegister a5 bytes s
  | .rRxPlWid => Sys2Proof.Machine.execRRxPlWid s
  | .rRxPayload w => Sys2Proof.Machine.execRRxPayload w s
  | .wTxPayload payload => Sys2Proof.Machine.execWTxPayload payload s
  | .cmdFlushTx => Sys2Proof.Machine.execCmdFlushTx s
  | .cmdFlushRx => Sys2Proof.Machine.execCmdFlushRx s
  | .cmdNop => Sys2Proof.Machine.execCmdNop s
  | .readReg addr => Sys2Proof.Machine.execReadReg addr s
  | .writeReg addr value => Sys2Proof.Machine.execWriteReg addr value s
  | .readAddrReg addr len => Sys2Proof.Machine.execReadAddrReg addr len s
  | .writeAddrReg addr len data => Sys2Proof.Machine.execWriteAddrReg addr len data s
  | .writeTxPayload len data => Sys2Proof.Machine.execWriteTxPayload len data s
  | .flushTx => Sys2Proof.Machine.execFlushTx s
  | .flushRx => Sys2Proof.Machine.execFlushRx s
  | .getStatus => Sys2Proof.Machine.execGetStatus s
  | .getFifoStatus => Sys2Proof.Machine.execGetFifoStatus s
  | .powerUp => Sys2Proof.Machine.execPowerUp s
  | .powerDown => Sys2Proof.Machine.execPowerDown s
  | .enterReceive => Sys2Proof.Machine.execEnterReceive s
  | .enterTransmit => Sys2Proof.Machine.execEnterTransmit s
  | .enterStandby => Sys2Proof.Machine.execEnterStandby s
  | .send len data => Sys2Proof.Machine.execSend len data s
  | .receive cap timeout => Sys2Proof.Machine.execReceive cap timeout s

end Sys2Proof.Machine
end

