-- ==== Sys2Proof/Machine/Sequencer.lean ====
section
/-! DEFINITION. The sequencer: accepting a request (R22, R90, R92), refusing one (R229, R234), and one step of the
block (R12). -/

namespace Sys2Proof.Machine

open Sys2Proof

/-- The host's first act is done. -/
def State.popHost (s : State) : State := { s with env := { s.env with host := s.env.host.tail } }

/-- A request is presented in Idle. It is decoded and, if well formed, captured whole (R73) and accepted, the
sequencer moving to `Busy(op, entry)` (R22). An unassigned operation code is accepted to be answered with
InvalidArgument (R92). A malformed request is refused (R90, R229). -/
def accept (r : Request) (s : State) : Out :=
  match decodeRequest r with
  | .ok i =>
    if i.wf s.par then .next ((s.record (.request r)).goto i .entry) else recordRefusal .malformedRequest s
  | .error (.unassignedOpcode opc) => .next { s.record (.request r) with phase := .illegal opc }
  | .error .malformedRequest => recordRefusal .malformedRequest s
  | .error (.notEmitted _) => recordRefusal .malformedRequest s
  | .error .badFrame => recordRefusal .malformedRequest s

/-- One step of the block itself: waiting in Idle, the answer to an unassigned operation code, or the next
action of the instruction in progress. -/
def blockStep (s : State) : Out :=
  match s.phase with
  | .idle => .next s
  | .illegal _ => raise .invalidArgument s
  | .busy i _ => exec i s

/-- A request put to the block whatever its phase: accepted in Idle, else the refusal `Reentrant` (R234). -/
def intrusion (r : Request) (s : State) : Out :=
  match s.phase with
  | .idle => accept r s
  | .illegal _ => recordRefusal .reentrant s
  | .busy _ _ => recordRefusal .reentrant s

/-- A synchronous call: its request is taken in Idle; otherwise the caller waits and the block goes on (R234). -/
def pendingCall (r : Request) (s : State) : Out :=
  match s.phase with
  | .idle => accept r s.popHost
  | .illegal _ => blockStep s
  | .busy _ _ => blockStep s

/-- One step of the machine when no mark is set: what the host does first, then the block (R8, R12). -/
def hostStep (s : State) : Out :=
  match s.env.host with
  | [] => blockStep s
  | .pass :: _ => blockStep s.popHost
  | .intrude r :: _ => intrusion r s.popHost
  | .call r :: _ => pendingCall r s

/-- One step. A recorded model fault or refusal stops the block for good (R229). -/
def sequencerStep (s : State) : Out :=
  match s.faultMark with
  | some f => .fault f
  | none =>
    match s.refusalMark with
    | some r => .refused r
    | none => hostStep s

end Sys2Proof.Machine
end

