-- ==== Sys2Proof/Machine/Step.lean ====
section
/-! DEFINITION. The step of the machine, and the placing of an opcode-table word where the step takes its next
instruction from. -/

namespace Sys2Proof.Machine

open Sys2Proof

/-- One step (R12): Sequencer says what it is. -/
def step (s : State) : Host.Outcome State Fault Refusal := sequencerStep s

/-- The block fetches nothing from a memory (R71): its instruction is the one its phase holds. The word's
instruction is put there at position `entry`, as accepting the request would have left it (log entry 13); a word
that is no instruction is put there as the unassigned operation code it is. -/
def State.withFetchWord (s : State) (nbits w : Nat) : State :=
  match decodeTableWord nbits w with
  | some i => { s with phase := .busy i .entry }
  | none => { s with phase := .illegal (BitVec.ofNat 8 w) }

end Sys2Proof.Machine
end

