-- ==== Sys2Proof/Safety.lean ====
section
/-! DEFINITION. The terms claims are stated in: runs, unmarked states, the host's protocol (R234), what a
transaction leaves, the invariant of the machine, and counts over the event history. -/

namespace Sys2Proof.Machine

open Sys2Proof

/-! ## Runs -/

/-- k steps of the machine, stopping at the first fault or refusal. -/
def runs (k : Nat) (s : State) : Out := Host.Core.run Sys2Proof.core k s

/-- No model fault and no refusal is recorded: the premise R229 asks claims to take. -/
def State.unmarked (s : State) : Prop := s.faultMark = none ∧ s.refusalMark = none

/-- The host keeps the protocol of R234: it only makes synchronous calls. -/
def keepsProtocol (acts : List HostAct) : Bool :=
  acts.all fun a =>
    match a with
    | .call _ => true
    | .intrude _ => false
    | .pass => false

/-- The state after the host acts that are left are the given ones. -/
def Env.withHost (e : Env) (acts : List HostAct) : Env := { e with host := acts }

/-- The state in which a protocol-keeping host's next call is r, ready to be accepted. -/
def State.ready (s : State) (r : Request) (rest : List HostAct) : Prop :=
  s.unmarked ∧ s.phase = .idle ∧ s.env.host = .call r :: rest ∧ keepsProtocol rest = true

/-! ## One transaction -/

/-- What one bus transaction of an instruction leaves, whatever the device oracle answers: on `Ok(rx)` the given
working registers and position, on `Err` the position before `raise BusError`; nothing else changes but the
history and the environment (R13, R14). -/
def State.transacted (s : State) (i : Instr) (f : Frame) (next : Label) (work : List Byte → Work) : State :=
  match s.env.busAnswer f with
  | .ok rx =>
    { s with env := s.env.popBus, history := s.history ++ [.bus f (.ok rx)], work := work rx, phase := .busy i next }
  | .err => { s with env := s.env.popBus, history := s.history ++ [.bus f .err], phase := .busy i .fail }

/-- What delivering a response without output bytes leaves (R226). -/
def State.responded (s : State) (r : Response) : State :=
  { s with phase := .idle, work := Work.empty, history := s.history ++ [.response r] }

/-! ## The invariant -/

/-- A frame the block may issue: one of the shapes of R85, and not NOP (R87, R119). -/
def legalFrame (f : Frame) : Bool :=
  match decodeFrame f with
  | .ok i => i != .cmdNop
  | .error _ => false

/-- The command byte of a frame: the first byte of its first segment (R80). -/
def commandOf (f : Frame) : Option Byte :=
  match f with
  | [] => none
  | g :: _ =>
    match g.kind with
    | .wr bytes => bytes.head?
    | .xch bytes => bytes.head?
    | .rd _ => none

/-- The frame begins with one of the command bytes of R81 to R83 other than NOP (R87, R119), and none of its segments
asks for a toggle or a delay (R13). -/
def startsLegally (f : Frame) : Bool :=
  f.all Seg.isPlain &&
    match (commandOf f).bind decodeCommand with
    | some op => op != .nop
    | none => false

/-- SEND's registers while a chunk is in flight: `off < len` and `n = min(32, len - off)` (R163). -/
def chunkInFlight (len : Nat) (r : Work) : Bool :=
  match r.off, r.n with
  | some off, some n => decide (off < len) && n.toNat == chunkLen len off
  | some _, none => false
  | none, some _ => false
  | none, none => false

/-- The positions of a bus command and of an operation of one transaction whose result register is the given one. -/
def simplePosition (l : Label) (result : Bool) : Bool :=
  match l with
  | .entry => true
  | .fail => true
  | .ret => result
  | _ => false

/-- The positions of a mode transition (R140–R143). -/
def transitionPosition (l : Label) (pin : Bool) (r : Work) : Bool :=
  match l with
  | .entry => true
  | .fail => true
  | .ret => true
  | .w => r.cfg.isSome
  | .p => pin
  | _ => false

/-- The positions of SEND, each with the registers the pseudocode has written there (R160). -/
def sendPosition (len : Nat) (l : Label) (r : Work) : Bool :=
  match l with
  | .entry => true
  | .fail => true
  | .ret => true
  | .etx => r.st.isSome
  | .etw => r.cfg.isSome
  | .etp => true
  | .chunk => true
  | .poll => chunkInFlight len r
  | .test => chunkInFlight len r && r.st.isSome && r.polls.isSome
  | .ack => chunkInFlight len r
  | .yld => chunkInFlight len r && r.polls.isSome
  | .flush => true
  | .standby => true
  | .timeout => true
  | _ => false

/-- The payload answer RECEIVE holds: the STATUS byte and w payload bytes, w at most 32 (R123, R202). -/
def payloadHeld (r : Work) : Bool :=
  match r.w, r.rd with
  | some w, some rx => decide (w.toNat ≤ Config.maxPayload) && rx.length == 1 + w.toNat
  | some _, none => false
  | none, some _ => false
  | none, none => false

/-- The positions of RECEIVE, each with the registers the pseudocode has written there (R190). -/
def receivePosition (cap timeout : Nat) (l : Label) (r : Work) : Bool :=
  match l with
  | .entry => true
  | .fail => decide (Config.rxCapMin ≤ cap)
  | .erx => decide (Config.rxCapMin ≤ cap) && r.t0.isSome
  | .erw => decide (Config.rxCapMin ≤ cap) && r.t0.isSome && r.cfg.isSome
  | .erp => decide (Config.rxCapMin ≤ cap) && r.t0.isSome
  | .poll => decide (Config.rxCapMin ≤ cap) && r.t0.isSome
  | .test => decide (Config.rxCapMin ≤ cap) && r.t0.isSome && r.fs.isSome
  | .deadline => decide (Config.rxCapMin ≤ cap) && r.t0.isSome && r.now.isSome && decide (timeout ≠ 0)
  | .yld => decide (Config.rxCapMin ≤ cap) && r.t0.isSome
  | .pay => decide (Config.rxCapMin ≤ cap) && r.w.isSome
  | .sby => decide (Config.rxCapMin ≤ cap) && payloadHeld r
  | .ret => decide (Config.rxCapMin ≤ cap) && payloadHeld r && r.pipe.isSome
  | _ => false

/-- Whether a position is one of the instruction's, with every register written that the rest of the pseudocode
reads (R22, R24). -/
def positionOk (i : Instr) (l : Label) (r : Work) : Bool :=
  match i with
  | .rRegister _ _ => simplePosition l r.rd.isSome
  | .wRegister _ _ => simplePosition l true
  | .rRxPlWid => simplePosition l r.w.isSome
  | .rRxPayload _ => simplePosition l r.rd.isSome
  | .wTxPayload _ => simplePosition l true
  | .cmdFlushTx => simplePosition l true
  | .cmdFlushRx => simplePosition l true
  | .cmdNop => simplePosition l true
  | .readReg _ => simplePosition l r.rd.isSome
  | .writeReg _ _ => simplePosition l true
  | .readAddrReg _ _ => simplePosition l r.rd.isSome
  | .writeAddrReg _ _ _ => simplePosition l true
  | .writeTxPayload _ _ => simplePosition l true
  | .flushTx => simplePosition l true
  | .flushRx => simplePosition l true
  | .getStatus => simplePosition l r.st.isSome
  | .getFifoStatus => simplePosition l r.fs.isSome
  | .powerUp => transitionPosition l false r
  | .powerDown => transitionPosition l false r
  | .enterReceive => transitionPosition l true r
  | .enterTransmit => transitionPosition l true r
  | .enterStandby =>
    match l with
    | .entry => true
    | .ret => true
    | _ => false
  | .send len _ => sendPosition len l r
  | .receive cap timeout => receivePosition cap timeout l r

/-- The chip-enable level a position implies: SEND and RECEIVE hold CE high from their mode transition on until
the pin write that ends them (R160, R190). -/
def impliedCe (i : Instr) (l : Label) : Option Bool :=
  match i, l with
  | .enterReceive, .ret => some true
  | .enterTransmit, .ret => some true
  | .enterStandby, .ret => some false
  | .send _ _, .chunk => some true
  | .send _ _, .poll => some true
  | .send _ _, .test => some true
  | .send _ _, .ack => some true
  | .send _ _, .yld => some true
  | .send _ _, .flush => some true
  | .send _ _, .standby => some true
  | .send _ _, .timeout => some false
  | .send _ _, .ret => some false
  | .receive _ _, .poll => some true
  | .receive _ _, .test => some true
  | .receive _ _, .deadline => some true
  | .receive _ _, .yld => some true
  | .receive _ _, .pay => some true
  | .receive _ _, .sby => some true
  | .receive _ _, .ret => some false
  | _, _ => none

/-- A tick register holds a reading of its width (R23). -/
def tickFits (p : Params) (t : Option Nat) : Prop := ∀ v, t = some v → v < 2 ^ p.tickBits

/-- The invariant of the machine: every step keeps it, and it holds after init. -/
structure StateInv (s : State) : Prop where
  /-- The parameters are legal (R9). -/
  params : s.par.wf = true
  /-- The output buffer keeps its canonical form. -/
  memory : Memory.wf s.out
  /-- Outside an operation no working register holds a value (R24). -/
  atRest : (∀ i l, s.phase ≠ .busy i l) → s.work = Work.empty
  /-- Inside one, the instruction is well formed, stands at a position of its pseudocode with the registers
  written that it will read, and the chip-enable level is the one the position implies. -/
  inside : ∀ i l, s.phase = .busy i l →
    i.wf s.par = true ∧ positionOk i l s.work = true ∧ ∀ v, impliedCe i l = some v → s.ce = v
  /-- Every frame ever issued has one of the shapes of R85 and is not NOP (R87, R119). -/
  frames : ∀ f a, Event.bus f a ∈ s.history → legalFrame f = true
  /-- Tick registers hold readings of `TICK_BITS` bits. -/
  startTick : tickFits s.par s.work.t0
  pollTick : tickFits s.par s.work.now

/-! ## Views of the event history (R37) -/

/-- The requests accepted. -/
def requestsOf (h : List Event) : List Request :=
  h.filterMap fun e =>
    match e with
    | .request r => some r
    | _ => none

/-- The responses delivered. -/
def responsesOf (h : List Event) : List Response :=
  h.filterMap fun e =>
    match e with
    | .response r => some r
    | _ => none

/-- The frames issued, in order. -/
def framesOf (h : List Event) : List Frame :=
  h.filterMap fun e =>
    match e with
    | .bus f _ => some f
    | _ => none

/-- The requests still waiting for their response: one while a host operation or an unassigned code is in
progress, else none. -/
def openRequests (p : Phase) : Nat :=
  match p with
  | .idle => 0
  | .illegal _ => 1
  | .busy i _ => if i.isHostOp then 1 else 0

/-- Every accepted request has had exactly one response, but the one in progress (R220, R234). -/
def AllAnswered (s : State) : Prop :=
  (requestsOf s.history).length = (responsesOf s.history).length + openRequests s.phase

/-! ## Expected traces of the poll loops

Each list says what a device answers, poll by poll. A poll that met no exit condition is followed by a yield. -/

/-- A STATUS snapshot with neither exit flag of the transmit poll (R165). -/
def quietStatus (st : Byte) : Bool := st.getLsbD 4 == false && st.getLsbD 5 == false

/-- A STATUS snapshot that acknowledges a chunk: TX_DS and not MAX_RT (R165, R167). -/
def ackStatus (st : Byte) : Bool := st.getLsbD 4 == false && st.getLsbD 5

/-- The answers of polls. -/
def pollAnswers (polls : List Byte) : List BusAnswer := polls.map fun b => .ok [b]

/-- The events of polls that met no exit condition: a read with the given command byte, and a yield (R165, R193). -/
def quietPolls (command : Byte) (polls : List Byte) : List Event :=
  polls.flatMap fun b => [.bus [wr [command], rd 1] (.ok [b]), .yield]

/-- How a device answers the chunks of SEND one after another: for each, its quiet snapshots and then the one
that acknowledges it. -/
abbrev AckLog := List (List Byte × Byte)

/-- The device answers to acknowledged chunks, with the TX_DS clear (R164, R165, R167). -/
def sendAnswers (acks : AckLog) : List BusAnswer :=
  match acks with
  | [] => []
  | (polls, a) :: rest => .ok [] :: (pollAnswers polls ++ .ok [a] :: .ok [] :: sendAnswers rest)

/-- The events of acknowledged chunks, 32 bytes of the buffer after another (R163–R167). -/
def sendEvents (data : List Byte) (acks : AckLog) : List Event :=
  match acks with
  | [] => []
  | (polls, a) :: rest =>
    .bus [wr [0xA0#8], wr (data.take 32)] (.ok []) ::
      (quietPolls 0x07#8 polls ++
        .bus [wr [0x07#8], rd 1] (.ok [a]) :: .bus [wr [0x27#8], wr [0x20#8]] (.ok []) ::
          sendEvents (data.drop 32) rest)

/-- The yields of acknowledged chunks. -/
def sendYields (acks : AckLog) : Nat :=
  match acks with
  | [] => 0
  | (polls, _) :: rest => polls.length + sendYields rest

/-- Every chunk of the log is acknowledged, within the poll limit if there is one (R165, R168). -/
def acknowledged (p : Params) (acks : AckLog) : Bool :=
  acks.all fun c =>
    c.1.all quietStatus && ackStatus c.2 &&
      match p.txPollLimit with
      | none => true
      | some l => decide (c.1.length < l)

/-- The answers to empty polls of RECEIVE, each with the tick movement to its reading. -/
abbrev TimedPolls := List (Byte × Nat)

/-- The sum of the tick movements. -/
def ticksPassed (polls : TimedPolls) : Nat := (polls.map Prod.snd).sum

/-- The events of empty polls of RECEIVE with a deadline that has not passed: the read, a tick reading, a yield
(R194). The count stands at c before. -/
def timedPolls (tickBits c : Nat) (polls : TimedPolls) : List Event :=
  match polls with
  | [] => []
  | (b, d) :: rest =>
    .bus [wr [0x17#8], rd 1] (.ok [b]) :: .tick ((c + d) % 2 ^ tickBits) :: .yield ::
      timedPolls tickBits (c + d) rest

/-- The environment after answers, tick readings and looks at the hook taken from its scripts. -/
def Env.advanced (e : Env) (host : List HostAct) (bus : List BusAnswer) (answers : Nat) (hook : List Bool)
    (looks : Nat) : Env :=
  { e with host := host, bus := bus, busCount := e.busCount + answers, hook := hook, hookLooks := e.hookLooks + looks }

end Sys2Proof.Machine
end

