-- ==== Sys2Proof/Certificates/Slice0/Obligations.lean ====
section
/-! DEFINITION. The statements about this model, in five groups: coding, the sequencer and its errors, one statement
per operation at each position of its pseudocode, whole operations as runs, and what every step keeps. -/

open Sys2Proof Sys2Proof.Machine

/-! ## Coding -/

/-- A few codes written out from the encoding tables decode to what they stand for (R81–R85, R89, R90). -/
def Obligations.WrittenOutCodesDecode : Prop :=
  decode (.frame [wr [0b00000111#8], rd 1]) = .ok (.rRegister 0b00111#5 1) ∧
  decode (.frame [wr [0b00101010#8], wr [1#8, 2#8, 3#8, 4#8, 5#8]]) =
    .ok (.wRegister 0b01010#5 [1#8, 2#8, 3#8, 4#8, 5#8]) ∧
  decode (.frame [xch [0b01100001#8], rd 3]) = .ok (.rRxPayload 3#8) ∧
  decode (.frame [wr [0b11100001#8]]) = .ok .cmdFlushTx ∧
  decode (.request { opc := 0b00000010#8, addr := 0x07#8, value := 0x70#8 }) = .ok (.writeReg 0x07#8 0x70#8) ∧
  decode (.request { opc := 0b00010100#8 }) = .ok .enterStandby ∧
  decode (.request { opc := 0b00100001#8, cap := 32, timeout := 50 }) = .ok (.receive 32 50)

/-- R84: the command byte of a register operation is `base | (addr & 0x1F)`, for every address and with no range
check, so that an address aliases its low five bits. -/
def Obligations.RegisterCommandByteFormula : Prop :=
  ∀ addr : Byte,
    (regField addr).setWidth 8 = addr &&& 0x1F#8 ∧
    regCommand 0x00#8 (regField addr) = 0x00#8 ||| (addr &&& 0x1F#8) ∧
    regCommand 0x20#8 (regField addr) = 0x20#8 ||| (addr &&& 0x1F#8) ∧
    regField addr = regField (addr &&& 0x1F#8)

/-- R86: the tests on a command byte in the rule's order, with `NOT_EMITTED` for every other value; the eight
patterns are disjoint. -/
def Obligations.CommandByteTests : Prop :=
  (∀ c : Byte, decodeCommand c =
    if c &&& 0xE0#8 = 0x00#8 then some .rRegister
    else if c &&& 0xE0#8 = 0x20#8 then some .wRegister
    else if c = 0x60#8 then some .rRxPlWid
    else if c = 0x61#8 then some .rRxPayload
    else if c = 0xA0#8 then some .wTxPayload
    else if c = 0xE1#8 then some .flushTx
    else if c = 0xE2#8 then some .flushRx
    else if c = 0xFF#8 then some .nop
    else none) ∧
  (∀ c : Byte, cmdAddr c = c.extractLsb' 0 5) ∧
  cmdTable.Pairwise fun r q => ∀ c : Byte, ¬(r.covers c = true ∧ q.covers c = true)

/-- R85: the frame of every bus command is the shape the rule gives, a zero-length data segment omitted. -/
def Obligations.FrameShapes : Prop :=
  (∀ (a5 : BitVec 5) (n : Nat), encode (.rRegister a5 n) = .frame [wr [0x00#8 ||| a5.setWidth 8], rd n]) ∧
  (∀ (a5 : BitVec 5) (b : List Byte), encode (.wRegister a5 b) = .frame [wr [0x20#8 ||| a5.setWidth 8], wr b]) ∧
  (∀ p : List Byte, p ≠ [] → encode (.wTxPayload p) = .frame [wr [0xA0#8], wr p]) ∧
  encode (.wTxPayload []) = .frame [wr [0xA0#8]] ∧
  encode .rRxPlWid = .frame [wr [0x60#8], rd 1] ∧
  (∀ w : Byte, w ≠ 0#8 → encode (.rRxPayload w) = .frame [xch [0x61#8], rd w.toNat]) ∧
  encode (.rRxPayload 0#8) = .frame [xch [0x61#8]] ∧
  encode .cmdFlushTx = .frame [wr [0xE1#8]] ∧
  encode .cmdFlushRx = .frame [wr [0xE2#8]]

/-- The code of every well-formed instruction, bus commands and host operations alike, decodes to it. -/
def Obligations.DecodeInvertsEncode : Prop :=
  ∀ (p : Params) (i : Instr), i.wf p = true → decode (encode i) = .ok i

/-- A frame has one meaning: whatever a recording bus decodes a frame to, that instruction's frame is it, and the
instruction is well formed. -/
def Obligations.FrameHasOneMeaning : Prop :=
  ∀ (f : Frame) (i : Instr) (p : Params), decodeFrame f = .ok i → encode i = .frame f ∧ i.wf p = true

/-- R89 and R92: each assigned operation code selects its operation, with the fields of R90; data whose length is
not `len` is rejected by name, and so is every unassigned code. -/
def Obligations.RequestsDecodeByOpcode : Prop :=
  ∀ r : Request,
    (r.opc = 0x01#8 → decodeRequest r = .ok (.readReg r.addr)) ∧
    (r.opc = 0x02#8 → decodeRequest r = .ok (.writeReg r.addr r.value)) ∧
    (r.opc = 0x03#8 → decodeRequest r = .ok (.readAddrReg r.addr r.len)) ∧
    (r.opc = 0x04#8 → r.data.length = r.len → decodeRequest r = .ok (.writeAddrReg r.addr r.len r.data)) ∧
    (r.opc = 0x05#8 → r.data.length = r.len → decodeRequest r = .ok (.writeTxPayload r.len r.data)) ∧
    (r.opc = 0x06#8 → decodeRequest r = .ok .flushTx) ∧
    (r.opc = 0x07#8 → decodeRequest r = .ok .flushRx) ∧
    (r.opc = 0x08#8 → decodeRequest r = .ok .getStatus) ∧
    (r.opc = 0x09#8 → decodeRequest r = .ok .getFifoStatus) ∧
    (r.opc = 0x10#8 → decodeRequest r = .ok .powerUp) ∧
    (r.opc = 0x11#8 → decodeRequest r = .ok .powerDown) ∧
    (r.opc = 0x12#8 → decodeRequest r = .ok .enterReceive) ∧
    (r.opc = 0x13#8 → decodeRequest r = .ok .enterTransmit) ∧
    (r.opc = 0x14#8 → decodeRequest r = .ok .enterStandby) ∧
    (r.opc = 0x20#8 → r.data.length = r.len → decodeRequest r = .ok (.send r.len r.data)) ∧
    (r.opc = 0x21#8 → decodeRequest r = .ok (.receive r.cap r.timeout)) ∧
    (r.opc ∈ [0x04#8, 0x05#8, 0x20#8] → r.data.length ≠ r.len → decodeRequest r = .error .malformedRequest) ∧
    (r.opc ∉ [0x01#8, 0x02#8, 0x03#8, 0x04#8, 0x05#8, 0x06#8, 0x07#8, 0x08#8, 0x09#8, 0x10#8, 0x11#8, 0x12#8,
        0x13#8, 0x14#8, 0x20#8, 0x21#8] → decodeRequest r = .error (.unassignedOpcode r.opc))

/-! ## Reset, sequencer, errors -/

/-- R38, R260: after init, for every configuration, chip-enable level and environment, the block waits in Idle with
no working register holding a value, no event, no mark and nothing written to an output buffer; with no request it
stays there. The last clause, that waiting is a step that changes nothing, is the model's (log entry 17). -/
def Obligations.InitStateWaitsInIdle : Prop :=
  ∀ (h : Handle) (p : Params) (ce : Bool) (e : Env),
    let s := State.init h p ce e
    s.phase = .idle ∧ s.ce = ce ∧ s.work = {} ∧ s.history = [] ∧ s.faultMark = none ∧ s.refusalMark = none ∧
    s.handle = h ∧ s.par = p ∧ s.out = [] ∧ s.env = e ∧ (e.host = [] → step s = .next s)

/-- The state after init meets the invariant. -/
def Obligations.ResetMeetsInvariant : Prop := StateInv State.reset ∧ AllAnswered State.reset

/-- A step runs the decoded instruction. A request that decodes to a well-formed instruction is accepted in Idle in
one step (R22); from then on, and at whatever position the sequencer stands, each step is one step of that
instruction. -/
def Obligations.StepRunsDecodedInstruction : Prop :=
  (∀ (s : State) (r : Request) (rest : List HostAct) (i : Instr),
    s.unmarked → s.phase = .idle → s.env.host = .call r :: rest → decode (.request r) = .ok i → i.wf s.par = true →
    step s = .next { s with phase := .busy i .entry, history := s.history ++ [.request r],
                            env := s.env.withHost rest }) ∧
  (∀ (s : State) (i : Instr) (l : Label),
    s.unmarked → s.phase = .busy i l → keepsProtocol s.env.host = true → step s = exec i s) ∧
  (∀ (s : State) (i : Instr) (l : Label) (rest : List HostAct),
    s.unmarked → s.phase = .busy i l → s.env.host = .pass :: rest →
    step s = exec i { s with env := s.env.withHost rest })

/-- R92: a request with an unassigned operation code is answered InvalidArgument with no bus transaction and no pin
write; nothing but the history and the host's list of acts has changed. That the request is accepted in one step and
answered in the next is the model's choice (log entry 18). -/
def Obligations.UnassignedOpcodeIsInvalidArgument : Prop :=
  ∀ (s : State) (r : Request) (rest : List HostAct),
    s.ready r rest →
    r.opc ∉ [0x01#8, 0x02#8, 0x03#8, 0x04#8, 0x05#8, 0x06#8, 0x07#8, 0x08#8, 0x09#8, 0x10#8, 0x11#8, 0x12#8,
      0x13#8, 0x14#8, 0x20#8, 0x21#8] →
    runs 2 s = .next
      { s with work := {}, env := s.env.withHost rest
               history := s.history ++ [.request r, .response { result := .invalidArgument }] }

/-- The refusals of R229: a request that arrives outside Idle, and in Idle one that carries data of another length
than `len`. The step records the refusal and does nothing else; every later step answers it. Two steps for that is
the model's choice (log entry 14). -/
def Obligations.RefusedRequests : Prop :=
  (∀ (s : State) (r : Request) (rest : List HostAct) (k : Nat),
    s.unmarked → s.phase ≠ .idle → s.env.host = .intrude r :: rest →
    step s = .next { s with refusalMark := some .reentrant, env := s.env.withHost rest } ∧
    runs (k + 2) s = .refused .reentrant) ∧
  (∀ (s : State) (r : Request) (rest : List HostAct) (k : Nat),
    s.unmarked → s.phase = .idle → (s.env.host = .intrude r :: rest ∨ s.env.host = .call r :: rest) →
    r.opc ∈ [0x04#8, 0x05#8, 0x20#8] → r.data.length ≠ r.len →
    step s = .next { s with refusalMark := some .malformedRequest, env := s.env.withHost rest } ∧
    runs (k + 2) s = .refused .malformedRequest)

/-- A mark is never cleared and stops the block for good (R229, R37): from a marked state no number of steps gives
a next state. -/
def Obligations.MarkedMachineStopsForGood : Prop :=
  ∀ (s : State) (k : Nat),
    (∀ f, s.faultMark = some f → runs (k + 1) s = .fault f) ∧
    (∀ r, s.faultMark = none → s.refusalMark = some r → runs (k + 1) s = .refused r)

/-- The only law of the device oracle is the shape of its answer: as many bytes as the segments request (R31, R13);
a scripted answer of that length is taken as it is. The clauses on a script are the model's choice (log entry 4).
The last four say what the segments request (R13): a write segment nothing, a read segment its n bytes, an exchange
as many as it sends, and a frame the sum over its segments. -/
def Obligations.BusAnswersHaveTheirShape : Prop :=
  ∀ (e : Env) (f : Frame),
    (∀ rx, e.busAnswer f = .ok rx → rx.length = rxCount f) ∧
    (∀ b rest, e.bus = .ok b :: rest → b.length = rxCount f → e.busAnswer f = .ok b) ∧
    (∀ rest, e.bus = .err :: rest → e.busAnswer f = .err) ∧
    rxCount [] = 0 ∧
    (∀ b t d, rxCount ({ kind := .wr b, toggle := t, delay := d } :: f) = rxCount f) ∧
    (∀ n t d, rxCount ({ kind := .rd n, toggle := t, delay := d } :: f) = n + rxCount f) ∧
    (∀ b t d, rxCount ({ kind := .xch b, toggle := t, delay := d } :: f) = b.length + rxCount f)

/-- R226, R14: after a failed transaction every host operation ends with the result BusError, with no further step
and no clean-up: only the sequencer, the working registers and the history change. ENTER_STANDBY has no transaction.
-/
def Obligations.BusErrorEndsTheOperation : Prop :=
  ∀ (s : State) (i : Instr),
    i.isHostOp = true → i ≠ .enterStandby → s.phase = .busy i .fail →
    exec i s = .next { s with phase := .idle, work := {}, history := s.history ++ [.response { result := .busError }] }

/-- MemWrite (R73): the bytes of a response stand at the start of the output buffer, index 0 first, and every index
beyond them reads as before. -/
def Obligations.OutputBytesLandAtTheStart : Prop :=
  ∀ (m : Memory) (a : Nat) (bytes : List Byte) (i : Nat),
    (m.writeBytes a bytes).read i =
      if a ≤ i ∧ i < a + bytes.length then bytes[i - a]? else m.read i

/-- The result codes (R91). -/
def Obligations.ResultCodes : Prop :=
  resultCode .ok = 0x00#8 ∧ resultCode .invalidArgument = 0x01#8 ∧ resultCode .busError = 0x02#8 ∧
  resultCode .deviceBusy = 0x03#8 ∧ resultCode .timeout = 0x04#8

/-! ## Bus commands -/

/-- R_REGISTER and W_REGISTER issue their one frame (R81, R82, R85); a read leaves the received bytes in `rd`. That
a bare command then goes back to Idle is the model's choice (log entry 9). -/
def Obligations.RegisterCommandsIssueTheirFrame : Prop :=
  ∀ (s : State) (a5 : BitVec 5) (n : Nat) (b : List Byte),
    (s.phase = .busy (.rRegister a5 n) .entry →
      exec (.rRegister a5 n) s = .next
        (s.transacted (.rRegister a5 n) [wr [0x00#8 ||| a5.setWidth 8], rd n] .ret
          fun rx => { s.work with rd := some rx })) ∧
    (s.phase = .busy (.wRegister a5 b) .entry →
      exec (.wRegister a5 b) s = .next
        (s.transacted (.wRegister a5 b) [wr [0x20#8 ||| a5.setWidth 8], wr b] .ret fun _ => s.work)) ∧
    (∀ l, l = .ret ∨ l = .fail →
      (s.phase = .busy (.rRegister a5 n) l → exec (.rRegister a5 n) s = .next { s with phase := .idle, work := {} }) ∧
      (s.phase = .busy (.wRegister a5 b) l → exec (.wRegister a5 b) s = .next { s with phase := .idle, work := {} }))

/-- R_RX_PL_WID, R_RX_PAYLOAD and W_TX_PAYLOAD issue their one frame (R122, R123, R85): the width is left in `w`,
the payload answer in `rd`, its STATUS byte in `s` and bits 3:1 of that in `pipe`. The return to Idle is the model's
choice (log entry 9). -/
def Obligations.PayloadCommandsIssueTheirFrame : Prop :=
  ∀ (s : State) (w : Byte) (p : List Byte),
    (s.phase = .busy .rRxPlWid .entry →
      exec .rRxPlWid s = .next
        (s.transacted .rRxPlWid [wr [0x60#8], rd 1] .ret fun rx => { s.work with w := rx[0]? })) ∧
    (s.phase = .busy (.rRxPayload w) .entry →
      exec (.rRxPayload w) s = .next
        (s.transacted (.rRxPayload w) (if w = 0#8 then [xch [0x61#8]] else [xch [0x61#8], rd w.toNat]) .ret
          fun rx => { s.work with rd := some rx, s := rx[0]?, pipe := rx[0]?.map fun b => b.extractLsb' 1 3 })) ∧
    (s.phase = .busy (.wTxPayload p) .entry →
      exec (.wTxPayload p) s = .next
        (s.transacted (.wTxPayload p) (if p = [] then [wr [0xA0#8]] else [wr [0xA0#8], wr p]) .ret fun _ => s.work)) ∧
    (∀ i l, (i = .rRxPlWid ∨ i = .rRxPayload w ∨ i = .wTxPayload p) → (l = .ret ∨ l = .fail) →
      s.phase = .busy i l → exec i s = .next { s with phase := .idle, work := {} })

/-- The command bytes without data: FLUSH_TX and FLUSH_RX are one transaction of the byte alone (R83, R85); NOP has
no transaction and no effect, the sequencer only moving on (R119; the model's choice, log entries 9 and 10). -/
def Obligations.BareCommandsAndNop : Prop :=
  ∀ s : State,
    (s.phase = .busy .cmdFlushTx .entry →
      exec .cmdFlushTx s = .next (s.transacted .cmdFlushTx [wr [0xE1#8]] .ret fun _ => s.work)) ∧
    (s.phase = .busy .cmdFlushRx .entry →
      exec .cmdFlushRx s = .next (s.transacted .cmdFlushRx [wr [0xE2#8]] .ret fun _ => s.work)) ∧
    (s.phase = .busy .cmdNop .entry → exec .cmdNop s = .next { s with phase := .busy .cmdNop .ret }) ∧
    (∀ i l, (i = .cmdFlushTx ∨ i = .cmdFlushRx ∨ i = .cmdNop) → (l = .ret ∨ l = .fail) →
      s.phase = .busy i l → exec i s = .next { s with phase := .idle, work := {} })

/-! ## The register-access encoder -/

/-- READ_REG (R110), operation code 0x01, at each position: one frame `RREG1(addr)`, then the byte read is the value
of the response. -/
def Obligations.ReadRegPseudocode : Prop :=
  ∀ (s : State) (addr b : Byte),
    (∀ r : Request, r.opc = 0x01#8 → decode (.request r) = .ok (.readReg r.addr)) ∧
    (s.phase = .busy (.readReg addr) .entry →
      exec (.readReg addr) s = .next
        (s.transacted (.readReg addr) [wr [0x00#8 ||| (addr &&& 0x1F#8)], rd 1] .ret
          fun rx => { s.work with rd := some rx })) ∧
    (s.phase = .busy (.readReg addr) .ret → s.work.rd = some [b] →
      exec (.readReg addr) s = .next (s.responded { result := .ok, value := some b })) ∧
    (s.phase = .busy (.readReg addr) .fail →
      exec (.readReg addr) s = .next (s.responded { result := .busError }))

/-- WRITE_REG (R111), operation code 0x02, at each position: one frame `WREG1(addr, value)`, then Ok. -/
def Obligations.WriteRegPseudocode : Prop :=
  ∀ (s : State) (addr v : Byte),
    (∀ r : Request, r.opc = 0x02#8 → decode (.request r) = .ok (.writeReg r.addr r.value)) ∧
    (s.phase = .busy (.writeReg addr v) .entry →
      exec (.writeReg addr v) s = .next
        (s.transacted (.writeReg addr v) [wr [0x20#8 ||| (addr &&& 0x1F#8)], wr [v]] .ret fun _ => s.work)) ∧
    (s.phase = .busy (.writeReg addr v) .ret →
      exec (.writeReg addr v) s = .next (s.responded { result := .ok })) ∧
    (s.phase = .busy (.writeReg addr v) .fail →
      exec (.writeReg addr v) s = .next (s.responded { result := .busError }))

/-- READ_ADDR_REG (R112), operation code 0x03, at each position: any length but 5 is InvalidArgument before any I/O;
else one frame `RREG5(addr)`, and the five bytes are the response's data and stand at the start of the output
buffer. -/
def Obligations.ReadAddrRegPseudocode : Prop :=
  ∀ (s : State) (addr : Byte) (len : Nat) (bytes : List Byte),
    (∀ r : Request, r.opc = 0x03#8 → decode (.request r) = .ok (.readAddrReg r.addr r.len)) ∧
    (s.phase = .busy (.readAddrReg addr len) .entry → len ≠ 5 →
      exec (.readAddrReg addr len) s = .next (s.responded { result := .invalidArgument })) ∧
    (s.phase = .busy (.readAddrReg addr len) .entry → len = 5 →
      exec (.readAddrReg addr len) s = .next
        (s.transacted (.readAddrReg addr len) [wr [0x00#8 ||| (addr &&& 0x1F#8)], rd 5] .ret
          fun rx => { s.work with rd := some rx })) ∧
    (s.phase = .busy (.readAddrReg addr len) .ret → s.work.rd = some bytes → bytes.length = 5 →
      exec (.readAddrReg addr len) s = .next
        { s.responded { result := .ok, data := some bytes } with out := s.out.writeBytes 0 bytes }) ∧
    (s.phase = .busy (.readAddrReg addr len) .fail →
      exec (.readAddrReg addr len) s = .next (s.responded { result := .busError }))

/-- WRITE_ADDR_REG (R113), operation code 0x04, at each position: any length but 5 is InvalidArgument before any
I/O, not truncated; else one frame `WREG5(addr, data)`, `data[0]` first. -/
def Obligations.WriteAddrRegPseudocode : Prop :=
  ∀ (s : State) (addr : Byte) (len : Nat) (data : List Byte),
    (∀ r : Request, r.opc = 0x04#8 → r.data.length = r.len → decode (.request r) = .ok (.writeAddrReg r.addr r.len r.data)) ∧
    (s.phase = .busy (.writeAddrReg addr len data) .entry → len ≠ 5 →
      exec (.writeAddrReg addr len data) s = .next (s.responded { result := .invalidArgument })) ∧
    (s.phase = .busy (.writeAddrReg addr len data) .entry → len = 5 → data.length = len →
      exec (.writeAddrReg addr len data) s = .next
        (s.transacted (.writeAddrReg addr len data) [wr [0x20#8 ||| (addr &&& 0x1F#8)], wr data] .ret
          fun _ => s.work)) ∧
    (s.phase = .busy (.writeAddrReg addr len data) .ret →
      exec (.writeAddrReg addr len data) s = .next (s.responded { result := .ok })) ∧
    (s.phase = .busy (.writeAddrReg addr len data) .fail →
      exec (.writeAddrReg addr len data) s = .next (s.responded { result := .busError }))

/-- WRITE_TX_PAYLOAD (R114), operation code 0x05, at each position: more than 32 bytes is InvalidArgument before any
I/O; else one frame `WPAY(data)`, the command byte alone for an empty payload. -/
def Obligations.WriteTxPayloadPseudocode : Prop :=
  ∀ (s : State) (len : Nat) (data : List Byte),
    (∀ r : Request, r.opc = 0x05#8 → r.data.length = r.len → decode (.request r) = .ok (.writeTxPayload r.len r.data)) ∧
    (s.phase = .busy (.writeTxPayload len data) .entry → 32 < len →
      exec (.writeTxPayload len data) s = .next (s.responded { result := .invalidArgument })) ∧
    (s.phase = .busy (.writeTxPayload len data) .entry → data.length = len → 1 ≤ len → len ≤ 32 →
      exec (.writeTxPayload len data) s = .next
        (s.transacted (.writeTxPayload len data) [wr [0xA0#8], wr data] .ret fun _ => s.work)) ∧
    (s.phase = .busy (.writeTxPayload len data) .entry → data.length = len → len = 0 →
      exec (.writeTxPayload len data) s = .next
        (s.transacted (.writeTxPayload len data) [wr [0xA0#8]] .ret fun _ => s.work)) ∧
    (s.phase = .busy (.writeTxPayload len data) .ret →
      exec (.writeTxPayload len data) s = .next (s.responded { result := .ok })) ∧
    (s.phase = .busy (.writeTxPayload len data) .fail →
      exec (.writeTxPayload len data) s = .next (s.responded { result := .busError }))

/-- FLUSH_TX (R115) and FLUSH_RX (R116), operation codes 0x06 and 0x07, at each position: one frame of the command
byte, then Ok. -/
def Obligations.FlushPseudocode : Prop :=
  ∀ s : State,
    (∀ r : Request, r.opc = 0x06#8 → decode (.request r) = .ok .flushTx) ∧
    (∀ r : Request, r.opc = 0x07#8 → decode (.request r) = .ok .flushRx) ∧
    (s.phase = .busy .flushTx .entry →
      exec .flushTx s = .next (s.transacted .flushTx [wr [0xE1#8]] .ret fun _ => s.work)) ∧
    (s.phase = .busy .flushRx .entry →
      exec .flushRx s = .next (s.transacted .flushRx [wr [0xE2#8]] .ret fun _ => s.work)) ∧
    (∀ i, i = .flushTx ∨ i = .flushRx →
      (s.phase = .busy i .ret → exec i s = .next (s.responded { result := .ok })) ∧
      (s.phase = .busy i .fail → exec i s = .next (s.responded { result := .busError })))

/-- GET_STATUS (R117) and GET_FIFO_STATUS (R118), operation codes 0x08 and 0x09, at each position: a fresh one-byte
read of register 0x07 or 0x17, whose byte is the value of the response. -/
def Obligations.StatusReadPseudocode : Prop :=
  ∀ (s : State) (b : Byte),
    (∀ r : Request, r.opc = 0x08#8 → decode (.request r) = .ok .getStatus) ∧
    (∀ r : Request, r.opc = 0x09#8 → decode (.request r) = .ok .getFifoStatus) ∧
    (s.phase = .busy .getStatus .entry →
      exec .getStatus s = .next
        (s.transacted .getStatus [wr [0x07#8], rd 1] .ret fun rx => { s.work with st := rx[0]? })) ∧
    (s.phase = .busy .getStatus .ret → s.work.st = some b →
      exec .getStatus s = .next (s.responded { result := .ok, value := some b })) ∧
    (s.phase = .busy .getStatus .fail → exec .getStatus s = .next (s.responded { result := .busError })) ∧
    (s.phase = .busy .getFifoStatus .entry →
      exec .getFifoStatus s = .next
        (s.transacted .getFifoStatus [wr [0x17#8], rd 1] .ret fun rx => { s.work with fs := rx[0]? })) ∧
    (s.phase = .busy .getFifoStatus .ret → s.work.fs = some b →
      exec .getFifoStatus s = .next (s.responded { result := .ok, value := some b })) ∧
    (s.phase = .busy .getFifoStatus .fail → exec .getFifoStatus s = .next (s.responded { result := .busError }))

/-! ## The mode state machine -/

/-- POWER_UP (R140) and POWER_DOWN (R141), operation codes 0x10 and 0x11, at each position: CONFIG is read afresh,
written back with bit 1 set or cleared and every other bit as read, and the chip-enable level is not touched. -/
def Obligations.PowerPseudocode : Prop :=
  ∀ (s : State) (cfg : Byte),
    (∀ r : Request, r.opc = 0x10#8 → decode (.request r) = .ok .powerUp) ∧
    (∀ r : Request, r.opc = 0x11#8 → decode (.request r) = .ok .powerDown) ∧
    (∀ i, i = .powerUp ∨ i = .powerDown →
      (s.phase = .busy i .entry →
        exec i s = .next (s.transacted i [wr [0x00#8], rd 1] .w fun rx => { s.work with cfg := rx[0]? })) ∧
      (s.phase = .busy i .ret → exec i s = .next (s.responded { result := .ok })) ∧
      (s.phase = .busy i .fail → exec i s = .next (s.responded { result := .busError }))) ∧
    (s.phase = .busy .powerUp .w → s.work.cfg = some cfg →
      exec .powerUp s = .next (s.transacted .powerUp [wr [0x20#8], wr [cfg ||| 0x02#8]] .ret fun _ => s.work)) ∧
    (s.phase = .busy .powerDown .w → s.work.cfg = some cfg →
      exec .powerDown s = .next (s.transacted .powerDown [wr [0x20#8], wr [cfg &&& 0xFD#8]] .ret fun _ => s.work))

/-- ENTER_RECEIVE (R142) and ENTER_TRANSMIT (R143), operation codes 0x12 and 0x13, at each position: CONFIG is read
afresh, written back with bit 0 set or cleared, and then chip-enable is raised. -/
def Obligations.ActivityPseudocode : Prop :=
  ∀ (s : State) (cfg : Byte),
    (∀ r : Request, r.opc = 0x12#8 → decode (.request r) = .ok .enterReceive) ∧
    (∀ r : Request, r.opc = 0x13#8 → decode (.request r) = .ok .enterTransmit) ∧
    (∀ i, i = .enterReceive ∨ i = .enterTransmit →
      (s.phase = .busy i .entry →
        exec i s = .next (s.transacted i [wr [0x00#8], rd 1] .w fun rx => { s.work with cfg := rx[0]? })) ∧
      (s.phase = .busy i .p →
        exec i s = .next { s with ce := true, phase := .busy i .ret, history := s.history ++ [.pin true] }) ∧
      (s.phase = .busy i .ret → exec i s = .next (s.responded { result := .ok })) ∧
      (s.phase = .busy i .fail → exec i s = .next (s.responded { result := .busError }))) ∧
    (s.phase = .busy .enterReceive .w → s.work.cfg = some cfg →
      exec .enterReceive s = .next
        (s.transacted .enterReceive [wr [0x20#8], wr [cfg ||| 0x01#8]] .p fun _ => s.work)) ∧
    (s.phase = .busy .enterTransmit .w → s.work.cfg = some cfg →
      exec .enterTransmit s = .next
        (s.transacted .enterTransmit [wr [0x20#8], wr [cfg &&& 0xFE#8]] .p fun _ => s.work))

/-- ENTER_STANDBY (R144), operation code 0x14, at each position: chip-enable is lowered, no device register is read
or written, and the result is always Ok. -/
def Obligations.StandbyPseudocode : Prop :=
  ∀ s : State,
    (∀ r : Request, r.opc = 0x14#8 → decode (.request r) = .ok .enterStandby) ∧
    (s.phase = .busy .enterStandby .entry →
      exec .enterStandby s = .next
        { s with ce := false, phase := .busy .enterStandby .ret, history := s.history ++ [.pin false] }) ∧
    (s.phase = .busy .enterStandby .ret → exec .enterStandby s = .next (s.responded { result := .ok }))

/-- R145 and R147: for the byte read and the level before, each transition's written byte differs from the byte
read in its one bit only, and the mode of the written byte and the level after is the one the table gives. -/
def Obligations.ModeTransitionTable : Prop :=
  ∀ (c : Byte) (ce : Bool),
    (∀ k, k < 8 → k ≠ 1 → (c ||| 0x02#8).getLsbD k = c.getLsbD k ∧ (c &&& 0xFD#8).getLsbD k = c.getLsbD k) ∧
    (∀ k, k < 8 → k ≠ 0 → (c ||| 0x01#8).getLsbD k = c.getLsbD k ∧ (c &&& 0xFE#8).getLsbD k = c.getLsbD k) ∧
    mode (c ||| 0x02#8) ce =
      (if ce = false then .standby else if c.getLsbD 0 then .receive else .transmit) ∧
    mode (c &&& 0xFD#8) ce = .poweredDown ∧
    mode (c ||| 0x01#8) true = (if c.getLsbD 1 then .receive else .poweredDown) ∧
    mode (c &&& 0xFE#8) true = (if c.getLsbD 1 then .transmit else .poweredDown) ∧
    mode c false = (if c.getLsbD 1 then .standby else .poweredDown)

/-! ## The transmit engine -/

/-- R161 and R162: SEND starts with one STATUS read; with TX_FULL set it ends in DeviceBusy with no further
transaction and chip-enable untouched; otherwise it performs ENTER_TRANSMIT. -/
def Obligations.SendBusyCheckAndEnterTransmit : Prop :=
  ∀ (s : State) (len : Nat) (data : List Byte) (st cfg : Byte),
    (s.phase = .busy (.send len data) .entry →
      exec (.send len data) s = .next
        (s.transacted (.send len data) [wr [0x07#8], rd 1] .etx fun rx => { s.work with st := rx[0]? })) ∧
    (s.phase = .busy (.send len data) .etx → s.work.st = some st → st.getLsbD 0 = true →
      exec (.send len data) s = .next (s.responded { result := .deviceBusy })) ∧
    (s.phase = .busy (.send len data) .etx → s.work.st = some st → st.getLsbD 0 = false →
      exec (.send len data) s = .next
        (s.transacted (.send len data) [wr [0x00#8], rd 1] .etw fun rx => { s.work with cfg := rx[0]? })) ∧
    (s.phase = .busy (.send len data) .etw → s.work.cfg = some cfg →
      exec (.send len data) s = .next
        (s.transacted (.send len data) [wr [0x20#8], wr [cfg &&& 0xFE#8]] .etp fun _ => s.work)) ∧
    (s.phase = .busy (.send len data) .etp →
      exec (.send len data) s = .next
        { s with ce := true, phase := .busy (.send len data) .chunk, history := s.history ++ [.pin true] })

/-- R163, R164 and R169: with `off` bytes acknowledged the next payload write carries `data[off .. off+n)` with
`n = min(32, len - off)`, and past the last chunk chip-enable is lowered. The loop head is reached at the start, after
the TX_DS clear, and straight from an acknowledging snapshot when `CLEAR_TX_DS` is false. -/
def Obligations.SendWritesTheNextChunk : Prop :=
  ∀ (s : State) (len : Nat) (data : List Byte) (off : Nat) (w : Work),
    data.length = len →
    ((s.phase = .busy (.send len data) .chunk ∧ off = 0 ∧ w = s.work) ∨
      (∃ off' n, s.phase = .busy (.send len data) .ack ∧ s.work.off = some off' ∧ s.work.n = some n ∧
        off = off' + n.toNat ∧ w = s.work) ∨
      (∃ off' n st k, s.phase = .busy (.send len data) .test ∧ s.par.clearTxDs = false ∧ s.work.off = some off' ∧
        s.work.n = some n ∧ s.work.st = some st ∧ s.work.polls = some k ∧ st.getLsbD 4 = false ∧
        st.getLsbD 5 = true ∧ off = off' + n.toNat ∧ w = { s.work with polls := some (k + 1) })) →
    (off < len →
      let w' : Work := { w with off := some off, n := some (BitVec.ofNat 6 (min 32 (len - off))) }
      exec (.send len data) s = .next
        (({ s with work := w' } : State).transacted (.send len data)
          [wr [0xA0#8], wr ((data.drop off).take (min 32 (len - off)))] .poll fun _ => w')) ∧
    (len ≤ off →
      exec (.send len data) s = .next
        { s with ce := false, work := { w with off := some off }, phase := .busy (.send len data) .ret
                 history := s.history ++ [.pin false] })

/-- R165, R167 and R168: each poll reads STATUS afresh; MAX_RT leads to the recovery path, else TX_DS to the TX_DS
clear (when `CLEAR_TX_DS`), else a reached poll limit to the recovery path, else there is one yield, after whose
return the next poll reads STATUS afresh. The count restarts at 0 for every chunk. -/
def Obligations.SendPollTests : Prop :=
  ∀ (s : State) (len : Nat) (data : List Byte) (st : Byte) (k : Nat),
    let w : Work := { s.work with polls := some (k + 1) }
    let w0 : Work := { s.work with polls := some 0 }
    (s.phase = .busy (.send len data) .poll →
      exec (.send len data) s = .next
        (({ s with work := w0 } : State).transacted (.send len data) [wr [0x07#8], rd 1] .test
          fun rx => { w0 with st := rx[0]? })) ∧
    (s.phase = .busy (.send len data) .test → s.work.st = some st → s.work.polls = some k → st.getLsbD 4 = true →
      exec (.send len data) s = .next
        (({ s with work := w } : State).transacted (.send len data) [wr [0x27#8], wr [0x70#8]] .flush fun _ => w)) ∧
    (s.phase = .busy (.send len data) .test → s.work.st = some st → s.work.polls = some k → st.getLsbD 4 = false →
      st.getLsbD 5 = true → s.par.clearTxDs = true →
      exec (.send len data) s = .next
        (({ s with work := w } : State).transacted (.send len data) [wr [0x27#8], wr [0x20#8]] .ack fun _ => w)) ∧
    (∀ l, s.phase = .busy (.send len data) .test → s.work.st = some st → s.work.polls = some k →
      st.getLsbD 4 = false → st.getLsbD 5 = false → s.par.txPollLimit = some l → l ≤ k + 1 →
      exec (.send len data) s = .next
        (({ s with work := w } : State).transacted (.send len data) [wr [0x27#8], wr [0x70#8]] .flush fun _ => w)) ∧
    (s.phase = .busy (.send len data) .test → s.work.st = some st → s.work.polls = some k →
      st.getLsbD 4 = false → st.getLsbD 5 = false → (∀ l, s.par.txPollLimit = some l → k + 1 < l) →
      exec (.send len data) s = .next
        { s with work := w, phase := .busy (.send len data) .yld, history := s.history ++ [.yield] }) ∧
    (s.phase = .busy (.send len data) .yld → s.env.hookReturned = true →
      exec (.send len data) s = .next
        (s.popHook.transacted (.send len data) [wr [0x07#8], rd 1] .test fun rx => { s.work with st := rx[0]? }))

/-- R166 and the ends of SEND (R169, R170): after the flag clear the recovery flushes the transmit FIFO, lowers
chip-enable and ends in Timeout; the completion ends in Ok. -/
def Obligations.SendRecoveryAndEnd : Prop :=
  ∀ (s : State) (len : Nat) (data : List Byte),
    (s.phase = .busy (.send len data) .flush →
      exec (.send len data) s = .next
        (s.transacted (.send len data) [wr [0xE1#8]] .standby fun _ => s.work)) ∧
    (s.phase = .busy (.send len data) .standby →
      exec (.send len data) s = .next
        { s with ce := false, phase := .busy (.send len data) .timeout, history := s.history ++ [.pin false] }) ∧
    (s.phase = .busy (.send len data) .timeout →
      exec (.send len data) s = .next (s.responded { result := .timeout })) ∧
    (s.phase = .busy (.send len data) .ret →
      exec (.send len data) s = .next (s.responded { result := .ok })) ∧
    (s.phase = .busy (.send len data) .fail →
      exec (.send len data) s = .next (s.responded { result := .busError }))

/-! ## The receive poller -/

/-- R191 and R192: a capacity below 32 is InvalidArgument before any I/O; otherwise the first action is one tick
reading, the count modulo `2^TICK_BITS`, kept as `t0`, even when the timeout is 0. -/
def Obligations.ReceiveCapacityAndStartTick : Prop :=
  ∀ (s : State) (cap timeout : Nat),
    (s.phase = .busy (.receive cap timeout) .entry → cap < 32 →
      exec (.receive cap timeout) s = .next (s.responded { result := .invalidArgument })) ∧
    (s.phase = .busy (.receive cap timeout) .entry → 32 ≤ cap →
      let v := s.env.nextTick % 2 ^ s.par.tickBits
      exec (.receive cap timeout) s = .next
        { s with
          env := { s.env with tick := s.env.nextTick, tickSteps := s.env.tickSteps.tail
                              tickReads := s.env.tickReads + 1 }
          work := { s.work with t0 := some v }, phase := .busy (.receive cap timeout) .erx
          history := s.history ++ [.tick v] })

/-- R193: RECEIVE performs ENTER_RECEIVE, then polls FIFO_STATUS, each time afresh, also after a yield. -/
def Obligations.ReceiveEntersAndPolls : Prop :=
  ∀ (s : State) (cap timeout : Nat) (cfg : Byte),
    (s.phase = .busy (.receive cap timeout) .erx →
      exec (.receive cap timeout) s = .next
        (s.transacted (.receive cap timeout) [wr [0x00#8], rd 1] .erw fun rx => { s.work with cfg := rx[0]? })) ∧
    (s.phase = .busy (.receive cap timeout) .erw → s.work.cfg = some cfg →
      exec (.receive cap timeout) s = .next
        (s.transacted (.receive cap timeout) [wr [0x20#8], wr [cfg ||| 0x01#8]] .erp fun _ => s.work)) ∧
    (s.phase = .busy (.receive cap timeout) .erp →
      exec (.receive cap timeout) s = .next
        { s with ce := true, phase := .busy (.receive cap timeout) .poll, history := s.history ++ [.pin true] }) ∧
    (s.phase = .busy (.receive cap timeout) .poll →
      exec (.receive cap timeout) s = .next
        (s.transacted (.receive cap timeout) [wr [0x17#8], rd 1] .test fun rx => { s.work with fs := rx[0]? })) ∧
    (s.phase = .busy (.receive cap timeout) .yld → s.env.hookReturned = true →
      exec (.receive cap timeout) s = .next
        (s.popHook.transacted (.receive cap timeout) [wr [0x17#8], rd 1] .test
          fun rx => { s.work with fs := rx[0]? }))

/-- R194, R195, R199 and R200: at a poll with data pending the width is read; at an empty one without a timeout there
is a yield and no tick reading; with a timeout the tick is read, and when `(now - t0) mod 2^TICK_BITS` has reached the
timeout RECEIVE ends in Timeout with chip-enable as it is and nothing written to the output buffer, else it yields. -/
def Obligations.ReceivePollAndDeadline : Prop :=
  ∀ (s : State) (cap timeout : Nat) (fs : Byte) (t0 now : Nat),
    (s.phase = .busy (.receive cap timeout) .test → s.work.fs = some fs → fs.getLsbD 0 = false →
      exec (.receive cap timeout) s = .next
        (s.transacted (.receive cap timeout) [wr [0x60#8], rd 1] .pay fun rx => { s.work with w := rx[0]? })) ∧
    (s.phase = .busy (.receive cap timeout) .test → s.work.fs = some fs → fs.getLsbD 0 = true → timeout = 0 →
      exec (.receive cap timeout) s = .next
        { s with phase := .busy (.receive cap timeout) .yld, history := s.history ++ [.yield] }) ∧
    (s.phase = .busy (.receive cap timeout) .test → s.work.fs = some fs → fs.getLsbD 0 = true → timeout ≠ 0 →
      let v := s.env.nextTick % 2 ^ s.par.tickBits
      exec (.receive cap timeout) s = .next
        { s with
          env := { s.env with tick := s.env.nextTick, tickSteps := s.env.tickSteps.tail
                              tickReads := s.env.tickReads + 1 }
          work := { s.work with now := some v }, phase := .busy (.receive cap timeout) .deadline
          history := s.history ++ [.tick v] }) ∧
    (s.phase = .busy (.receive cap timeout) .deadline → s.work.t0 = some t0 → s.work.now = some now →
      t0 < 2 ^ s.par.tickBits → now < 2 ^ s.par.tickBits →
      timeout ≤ (now + 2 ^ s.par.tickBits - t0) % 2 ^ s.par.tickBits →
      exec (.receive cap timeout) s = .next (s.responded { result := .timeout })) ∧
    (s.phase = .busy (.receive cap timeout) .deadline → s.work.t0 = some t0 → s.work.now = some now →
      t0 < 2 ^ s.par.tickBits → now < 2 ^ s.par.tickBits →
      (now + 2 ^ s.par.tickBits - t0) % 2 ^ s.par.tickBits < timeout →
      exec (.receive cap timeout) s = .next
        { s with phase := .busy (.receive cap timeout) .yld, history := s.history ++ [.yield] })

/-- R196, R197, R201 and R202: a width above 32 records the model fault and issues nothing; otherwise the payload is
read in one frame with the STATUS byte, whose bits 3:1 are returned as the pipe unchecked; chip-enable is lowered
and the response is Ok with pipe, size and data, the data also standing at the start of the output buffer. That the
fault is recorded in this step, which answers a next state, and answered by the steps after it, is the model's
choice (log entry 14). -/
def Obligations.ReceiveWidthPayloadAndEnd : Prop :=
  ∀ (s : State) (cap timeout : Nat) (w b : Byte) (payload : List Byte),
    (s.phase = .busy (.receive cap timeout) .pay → s.work.w = some w → 32 < w.toNat → s.faultMark = none →
      exec (.receive cap timeout) s = .next { s with faultMark := some .rxWidthInvalid }) ∧
    (s.phase = .busy (.receive cap timeout) .pay → s.work.w = some w → w.toNat ≤ 32 →
      exec (.receive cap timeout) s = .next
        (s.transacted (.receive cap timeout) (if w = 0#8 then [xch [0x61#8]] else [xch [0x61#8], rd w.toNat]) .sby
          fun rx => { s.work with rd := some rx })) ∧
    (s.phase = .busy (.receive cap timeout) .sby → s.work.rd = some (b :: payload) →
      exec (.receive cap timeout) s = .next
        { s with ce := false, work := { s.work with s := some b, pipe := some (b.extractLsb' 1 3) }
                 phase := .busy (.receive cap timeout) .ret, history := s.history ++ [.pin false] }) ∧
    (∀ pipe, s.phase = .busy (.receive cap timeout) .ret → s.work.rd = some (b :: payload) → s.work.w = some w →
      payload.length = w.toNat → s.work.pipe = some pipe →
      exec (.receive cap timeout) s = .next
        { s.responded { result := .ok, pipe := some pipe, size := some (BitVec.ofNat 6 w.toNat)
                        data := some payload } with out := s.out.writeBytes 0 payload }) ∧
    (s.phase = .busy (.receive cap timeout) .fail →
      exec (.receive cap timeout) s = .next (s.responded { result := .busError }))

/-- While the hook has not returned, SEND and RECEIVE wait in Yield: nothing changes but the look at the hook (R235,
R237). A look being a step of the model is its choice (log entry 6). -/
def Obligations.YieldWaitsForTheHook : Prop :=
  ∀ (s : State) (i : Instr), ((∃ len data, i = .send len data) ∨ ∃ cap timeout, i = .receive cap timeout) →
    s.phase = .busy i .yld → s.env.hookReturned = false →
    exec i s = .next { s with env := { s.env with hook := s.env.hook.tail, hookLooks := s.env.hookLooks + 1 } }

/-! ## Whole operations -/

/-- READ_REG from request to response (R110): for every address and every byte the device answers, the trace is
the request, one transaction, the response, and nothing else of the state changes. -/
def Obligations.ReadRegFromRequestToResponse : Prop :=
  ∀ (s : State) (addr b : Byte) (rest : List HostAct) (more : List BusAnswer),
    s.ready { opc := 0x01#8, addr := addr } rest → s.env.bus = .ok [b] :: more →
    runs 3 s = .next
      { s with
        work := {}, env := s.env.advanced rest more 1 s.env.hook 0
        history := s.history ++
          [.request { opc := 0x01#8, addr := addr },
           .bus [wr [0x00#8 ||| (addr &&& 0x1F#8)], rd 1] (.ok [b]),
           .response { result := .ok, value := some b }] }

/-- POWER_UP from request to response (R140, R145): the byte written is the byte this operation read with bit 1
set, and chip-enable is unchanged. -/
def Obligations.PowerUpFromRequestToResponse : Prop :=
  ∀ (s : State) (c : Byte) (rest : List HostAct) (more : List BusAnswer),
    s.ready { opc := 0x10#8 } rest → s.env.bus = .ok [c] :: .ok [] :: more →
    runs 4 s = .next
      { s with
        work := {}, env := s.env.advanced rest more 2 s.env.hook 0
        history := s.history ++
          [.request { opc := 0x10#8 }, .bus [wr [0x00#8], rd 1] (.ok [c]),
           .bus [wr [0x20#8], wr [c ||| 0x02#8]] (.ok []), .response { result := .ok }] }

/-- R146: a transition whose CONFIG read or CONFIG write fails ends in BusError with chip-enable not written; after a
failed read no write is issued. -/
def Obligations.FailedTransitionLeavesThePin : Prop :=
  ∀ (s : State) (opc : Byte) (rest : List HostAct) (more : List BusAnswer),
    opc = 0x12#8 ∨ opc = 0x13#8 → s.ready { opc := opc } rest →
    (s.env.bus = .err :: more →
      runs 3 s = .next
        { s with
          work := {}, env := s.env.advanced rest more 1 s.env.hook 0
          history := s.history ++
            [.request { opc := opc }, .bus [wr [0x00#8], rd 1] .err, .response { result := .busError }] }) ∧
    (∀ c, s.env.bus = .ok [c] :: .err :: more →
      runs 4 s = .next
        { s with
          work := {}, env := s.env.advanced rest more 2 s.env.hook 0
          history := s.history ++
            [.request { opc := opc }, .bus [wr [0x00#8], rd 1] (.ok [c]),
             .bus [wr [0x20#8], wr [if opc = 0x12#8 then c ||| 0x01#8 else c &&& 0xFE#8]] .err,
             .response { result := .busError }] })

/-- R149: calling ENTER_STANDBY twice leaves the same pin state as once, chip-enable low, and neither call issues a
bus transaction. -/
def Obligations.StandbyIsIdempotent : Prop :=
  ∀ (s : State) (rest : List HostAct),
    s.ready { opc := 0x14#8 } (.call { opc := 0x14#8 } :: rest) →
    runs 3 s = .next
      { s with
        ce := false, work := {}, env := s.env.withHost (.call { opc := 0x14#8 } :: rest)
        history := s.history ++ [.request { opc := 0x14#8 }, .pin false, .response { result := .ok }] } ∧
    runs 6 s = .next
      { s with
        ce := false, work := {}, env := s.env.withHost rest
        history := s.history ++
          [.request { opc := 0x14#8 }, .pin false, .response { result := .ok },
           .request { opc := 0x14#8 }, .pin false, .response { result := .ok }] }

/-- SEND completes (R160, R163–R169, `CLEAR_TX_DS = true`): on every device that, for each chunk, answers any number
of snapshots with neither flag and then one with TX_DS and not MAX_RT (within the poll limit, if there is one), a
buffer of any length goes out as chunks of at most 32 bytes in order, and SEND ends with chip-enable low and Ok. The
number of steps of a yield is the model's choice (log entry 6). -/
def Obligations.SendDeliversTheWholeBuffer : Prop :=
  ∀ (s : State) (data : List Byte) (st0 c : Byte) (acks : AckLog) (rest : List HostAct) (more : List BusAnswer)
    (hook : List Bool),
    let r : Request := { opc := 0x20#8, len := data.length, data := data }
    s.ready r rest → data.length < 2 ^ s.par.lenBits → s.par.clearTxDs = true → st0.getLsbD 0 = false →
    acks.length = (data.length + 31) / 32 → acknowledged s.par acks = true →
    s.env.bus = .ok [st0] :: .ok [c] :: .ok [] :: (sendAnswers acks ++ more) →
    s.env.hook = List.replicate (sendYields acks) true ++ hook →
    runs (7 + 3 * acks.length + 2 * sendYields acks) s = .next
      { s with
        ce := false, work := {}
        env := s.env.advanced rest more (3 + 3 * acks.length + sendYields acks) hook (sendYields acks)
        history := s.history ++
          ([.request r, .bus [wr [0x07#8], rd 1] (.ok [st0]), .bus [wr [0x00#8], rd 1] (.ok [c]),
            .bus [wr [0x20#8], wr [c &&& 0xFE#8]] (.ok []), .pin true] ++
            sendEvents data acks ++ [.pin false, .response { result := .ok }]) }

/-- SEND gives up (R166, R168, R172): after any number of acknowledged chunks, a chunk that ends its polls with
MAX_RT or reaches the poll limit takes the recovery path: flags cleared, transmit FIFO flushed, chip-enable low,
Timeout, and no later chunk is written. The number of steps of a yield is the model's choice (log entry 6). -/
def Obligations.SendTimesOutAndRecovers : Prop :=
  ∀ (s : State) (data : List Byte) (st0 c : Byte) (acks : AckLog) (polls : List Byte) (last : Byte)
    (rest : List HostAct) (more : List BusAnswer) (hook : List Bool),
    let r : Request := { opc := 0x20#8, len := data.length, data := data }
    s.ready r rest → data.length < 2 ^ s.par.lenBits → s.par.clearTxDs = true → st0.getLsbD 0 = false →
    32 * acks.length < data.length → acknowledged s.par acks = true →
    polls.all quietStatus = true → (∀ l, s.par.txPollLimit = some l → polls.length < l) →
    (last.getLsbD 4 = true ∨ (quietStatus last = true ∧ s.par.txPollLimit = some (polls.length + 1))) →
    s.env.bus = .ok [st0] :: .ok [c] :: .ok [] ::
      (sendAnswers acks ++ .ok [] :: (pollAnswers polls ++ .ok [last] :: .ok [] :: .ok [] :: more)) →
    s.env.hook = List.replicate (sendYields acks + polls.length) true ++ hook →
    runs (11 + 3 * acks.length + 2 * (sendYields acks + polls.length)) s = .next
      { s with
        ce := false, work := {}
        env := s.env.advanced rest more (7 + 3 * acks.length + sendYields acks + polls.length) hook
          (sendYields acks + polls.length)
        history := s.history ++
          ([.request r, .bus [wr [0x07#8], rd 1] (.ok [st0]), .bus [wr [0x00#8], rd 1] (.ok [c]),
            .bus [wr [0x20#8], wr [c &&& 0xFE#8]] (.ok []), .pin true] ++
            sendEvents data acks ++
            [.bus [wr [0xA0#8], wr ((data.drop (32 * acks.length)).take 32)] (.ok [])] ++
            quietPolls 0x07#8 polls ++
            [.bus [wr [0x07#8], rd 1] (.ok [last]), .bus [wr [0x27#8], wr [0x70#8]] (.ok []),
             .bus [wr [0xE1#8]] (.ok []), .pin false, .response { result := .timeout }]) }

/-- R173: with no poll limit a device that reports neither flag keeps SEND polling: after any number of such polls
it stands in its yield, the chunk unacknowledged, chip-enable as it was and no response given. The number of steps of a
yield is the model's choice (log entry 6). -/
def Obligations.SendPollsWithoutBound : Prop :=
  ∀ (s : State) (len : Nat) (data : List Byte) (polls : List Byte) (more : List BusAnswer) (hook : List Bool) (k : Nat),
    s.unmarked → keepsProtocol s.env.host = true → s.par.txPollLimit = none →
    s.phase = .busy (.send len data) .yld → s.work.polls = some k → polls ≠ [] → polls.all quietStatus = true →
    s.env.bus = pollAnswers polls ++ more → s.env.hook = List.replicate polls.length true ++ hook →
    runs (2 * polls.length) s = .next
      { s with
        work := { s.work with st := polls.getLast?, polls := some (k + polls.length) }
        env := s.env.advanced s.env.host more polls.length hook polls.length
        history := s.history ++ quietPolls 0x07#8 polls }

/-- RECEIVE with timeout 0 waits for ever (R190, R197, R200): after any number of empty polls, with no tick read
among them, it still receives the payload that comes, whatever its width up to 32, and ends with chip-enable low.
The number of steps of a yield is the model's choice (log entry 6). -/
def Obligations.ReceiveWithoutTimeoutWaitsForData : Prop :=
  ∀ (s : State) (cap : Nat) (c w b fs : Byte) (polls payload : List Byte) (rest : List HostAct)
    (more : List BusAnswer) (hook : List Bool),
    let r : Request := { opc := 0x21#8, cap := cap, timeout := 0 }
    let v := s.env.nextTick % 2 ^ s.par.tickBits
    s.ready r rest → 32 ≤ cap → cap < 2 ^ s.par.lenBits →
    (polls.all fun x => x.getLsbD 0) = true → fs.getLsbD 0 = false → w.toNat ≤ 32 → payload.length = w.toNat →
    s.env.bus = .ok [c] :: .ok [] ::
      (pollAnswers polls ++ .ok [fs] :: .ok [w] :: .ok (b :: payload) :: more) →
    s.env.hook = List.replicate polls.length true ++ hook →
    runs (10 + 2 * polls.length) s = .next
      { s with
        ce := false, work := {}, out := s.out.writeBytes 0 payload
        env := { s.env.advanced rest more (5 + polls.length) hook polls.length with
                 tick := s.env.nextTick, tickSteps := s.env.tickSteps.tail, tickReads := s.env.tickReads + 1 }
        history := s.history ++
          ([.request r, .tick v, .bus [wr [0x00#8], rd 1] (.ok [c]), .bus [wr [0x20#8], wr [c ||| 0x01#8]] (.ok []),
            .pin true] ++ quietPolls 0x17#8 polls ++
           [.bus [wr [0x17#8], rd 1] (.ok [fs]), .bus [wr [0x60#8], rd 1] (.ok [w]),
            .bus (if w = 0#8 then [xch [0x61#8]] else [xch [0x61#8], rd w.toNat]) (.ok (b :: payload)),
            .pin false,
            .response { result := .ok, pipe := some (b.extractLsb' 1 3), size := some (BitVec.ofNat 6 w.toNat)
                        data := some payload }]) }

/-- RECEIVE with a timeout and no data (R194, R199): it polls as long as the ticks passed since its first reading
stay below the timeout, and at the first reading that has reached it ends in Timeout, with chip-enable left high and
nothing written to the output buffer. The ticks passed stay below `2^TICK_BITS` here. The number of steps of a yield
is the model's choice (log entry 6). -/
def Obligations.ReceiveTimesOutAtTheDeadline : Prop :=
  ∀ (s : State) (cap timeout : Nat) (c fs : Byte) (d0 d : Nat) (polls : TimedPolls) (rest : List HostAct)
    (more : List BusAnswer) (steps : List Nat) (hook : List Bool),
    let r : Request := { opc := 0x21#8, cap := cap, timeout := timeout }
    let c0 := s.env.tick + d0
    let cEnd := c0 + ticksPassed polls + d
    s.ready r rest → 32 ≤ cap → cap < 2 ^ s.par.lenBits → 0 < timeout → timeout < 2 ^ s.par.tickBits →
    (polls.all fun x => x.1.getLsbD 0) = true → fs.getLsbD 0 = true →
    ticksPassed polls < timeout → timeout ≤ ticksPassed polls + d → ticksPassed polls + d < 2 ^ s.par.tickBits →
    s.env.bus = .ok [c] :: .ok [] :: (pollAnswers (polls.map Prod.fst) ++ .ok [fs] :: more) →
    s.env.tickSteps = d0 :: (polls.map Prod.snd ++ d :: steps) →
    s.env.hook = List.replicate polls.length true ++ hook →
    runs (8 + 3 * polls.length) s = .next
      { s with
        ce := true, work := {}
        env := { s.env.advanced rest more (3 + polls.length) hook polls.length with
                 tick := cEnd, tickSteps := steps, tickReads := s.env.tickReads + 2 + polls.length }
        history := s.history ++
          ([.request r, .tick (c0 % 2 ^ s.par.tickBits), .bus [wr [0x00#8], rd 1] (.ok [c]),
            .bus [wr [0x20#8], wr [c ||| 0x01#8]] (.ok []), .pin true] ++
           timedPolls s.par.tickBits c0 polls ++
           [.bus [wr [0x17#8], rd 1] (.ok [fs]), .tick (cEnd % 2 ^ s.par.tickBits),
            .response { result := .timeout }]) }

/-! ## What every step keeps -/

/-- Every step keeps the invariant. -/
def Obligations.StepKeepsInvariant : Prop := ∀ s t : State, StateInv s → step s = .next t → StateInv t

/-- From a state that meets the invariant, the only model fault a step can record is RxWidthInvalid, by RECEIVE
after a width above 32 (R24, R202, R229): no working register is read unwritten and no position is missing. That the
mark is recorded by a step that answers a next state is the model's choice (log entry 14). -/
def Obligations.OnlyWidthFaultsAreRaised : Prop :=
  ∀ (s t : State) (f : Fault), StateInv s → step s = .next t → t.faultMark = some f →
    f = .rxWidthInvalid ∧ ∃ cap timeout w, s.phase = .busy (.receive cap timeout) .pay ∧ s.work.w = some w ∧ 32 < w.toNat

/-- Every accepted request has had exactly one response, but for the one in progress (R220, R234): every step keeps
this count. -/
def Obligations.OneResponsePerRequest : Prop := ∀ s t : State, AllAnswered s → step s = .next t → AllAnswered t

/-- The configuration and the parameters are no state: no step changes them (R8, R9, R38). That they stand in State
is the model's choice (log entry 1). -/
def Obligations.ConfigurationIsFixed : Prop :=
  ∀ s t : State, step s = .next t → t.handle = s.handle ∧ t.par = s.par

/-- R12, R37: a step performs at most one primitive action: the history grows by at most one event and never loses
one, and a step that adds no event changes neither chip-enable nor the output buffer. -/
def Obligations.AtMostOneActionPerStep : Prop :=
  ∀ s t : State, step s = .next t →
    (t.history = s.history ∧ t.ce = s.ce ∧ t.out = s.out) ∨ ∃ e, t.history = s.history ++ [e]

/-- R21: chip-enable is written only by a pin write, and holds the level of the pin write that a step performs. -/
def Obligations.ChipEnableFollowsPinWrites : Prop :=
  ∀ s t : State, step s = .next t →
    (∀ v, t.history = s.history ++ [Event.pin v] → t.ce = v) ∧
    ((∀ v, t.history ≠ s.history ++ [Event.pin v]) → t.ce = s.ce)

/-- R73: the output buffer changes only in the step that delivers a response, and only by that response's data placed
at its start. -/
def Obligations.OutputBufferFollowsResponses : Prop :=
  ∀ s t : State, step s = .next t →
    (t.out = s.out ∨ ∃ r d, t.history = s.history ++ [Event.response r] ∧ r.data = some d ∧ t.out = s.out.writeBytes 0 d)

/-- R87, R119: whatever the state, a frame that a step issues begins with one of the command bytes of R81 to R83 and
never with NOP, and none of its segments asks for a device-select toggle or a delay (R13, R75). -/
def Obligations.IssuedFramesAreLegal : Prop :=
  ∀ (s t : State) (f : Frame) (a : BusAnswer), step s = .next t → t.history = s.history ++ [Event.bus f a] →
    ∃ c op, commandOf f = some c ∧ decodeCommand c = some op ∧ op ≠ .nop ∧
      ∀ g, g ∈ f → g.toggle = false ∧ g.delay = 0

/-- R232: the count behind the tick source never decreases. -/
def Obligations.TickCountNeverDecreases : Prop :=
  ∀ s t : State, step s = .next t → s.env.tick ≤ t.env.tick

/-- R198: the only register write among the frames of RECEIVE is the one to CONFIG (0x20), and none of them is a flush
or a payload write: the others read CONFIG, FIFO_STATUS, the width and the payload. -/
def Obligations.ReceiveWritesOnlyConfig : Prop :=
  ∀ (s t : State) (cap timeout : Nat) (l : Label) (f : Frame) (a : BusAnswer),
    s.phase = .busy (.receive cap timeout) l → step s = .next t → t.history = s.history ++ [Event.bus f a] →
    commandOf f ∈ [some 0x00#8, some 0x20#8, some 0x17#8, some 0x60#8, some 0x61#8]
end

