-- ==== Sys2Proof/Laws/Memory.lean ====
section
/-! SUPPORT. The laws of the host output buffer: every operation keeps the canonical form, and what a read
returns after a write. -/

namespace Sys2Proof.Machine

open Sys2Proof

/-- The least index of a written buffer stays above any bound that lies below it and below the new index. -/
theorem Memory.write_above (m : Memory) (a : Nat) (v : Byte) (k : Nat) (ha : k < a)
    (h : ∀ c ∈ m, k < c.1) : ∀ c ∈ m.write a v, k < c.1 := by
  induction m with
  | nil => simpa [Memory.write] using ha
  | cons x rest ih =>
    obtain ⟨x, b⟩ := x
    have hx : k < x := h (x, b) (by simp)
    have hr : ∀ c ∈ rest, k < c.1 := fun c hc => h c (by simp [hc])
    intro c hc
    simp only [Memory.write] at hc
    split at hc
    · simp only [List.mem_cons] at hc
      rcases hc with rfl | rfl | hc
      · exact ha
      · exact hx
      · exact hr c hc
    · split at hc
      · simp only [List.mem_cons] at hc
        rcases hc with rfl | hc
        · exact ha
        · exact hr c hc
      · simp only [List.mem_cons] at hc
        rcases hc with rfl | hc
        · exact hx
        · exact ih hr c hc

/-- A write keeps the canonical form. -/
theorem Memory.write_wf (m : Memory) (a : Nat) (v : Byte) (h : Memory.wf m) : Memory.wf (m.write a v) := by
  induction m with
  | nil => simp [Memory.write, Memory.wf]
  | cons x rest ih =>
    obtain ⟨x, b⟩ := x
    simp only [Memory.wf, List.pairwise_cons] at h
    obtain ⟨hx, hr⟩ := h
    simp only [Memory.write]
    split
    case isTrue hlt =>
      simp only [Memory.wf, List.pairwise_cons, List.mem_cons]
      refine ⟨?_, hx, hr⟩
      rintro c (rfl | hc)
      · exact hlt
      · exact lt_trans hlt (hx c hc)
    case isFalse hge =>
      split
      case isTrue heq =>
        subst heq
        simpa only [Memory.wf, List.pairwise_cons] using ⟨hx, hr⟩
      case isFalse hne =>
        simp only [Memory.wf, List.pairwise_cons]
        exact ⟨Memory.write_above rest a v x (by omega) hx, ih hr⟩

/-- Writing a run of bytes keeps the canonical form. -/
theorem Memory.writeBytes_wf (m : Memory) (a : Nat) (bytes : List Byte) (h : Memory.wf m) :
    Memory.wf (m.writeBytes a bytes) := by
  induction bytes generalizing m a with
  | nil => simpa [Memory.writeBytes] using h
  | cons b bs ih => exact ih _ _ (Memory.write_wf m a b h)

/-- A read below every listed index finds nothing. -/
theorem Memory.read_none_below (m : Memory) (a : Nat) (h : ∀ c ∈ m, a < c.1) : m.read a = none := by
  induction m with
  | nil => rfl
  | cons x rest ih =>
    obtain ⟨x, b⟩ := x
    have hx : a < x := h (x, b) (by simp)
    rw [Memory.read, if_neg (by omega)]
    exact ih fun c hc => h c (by simp [hc])

/-- A read after a write: the written byte at its index, every other index as before. -/
theorem Memory.read_write (m : Memory) (a : Nat) (v : Byte) (i : Nat) :
    (m.write a v).read i = if i = a then some v else m.read i := by
  induction m with
  | nil => simp [Memory.write, Memory.read]
  | cons x rest ih =>
    obtain ⟨x, b⟩ := x
    simp only [Memory.write]
    split
    · simp [Memory.read]
    · split
      case isTrue heq =>
        subst heq
        by_cases hi : i = a <;> simp [Memory.read, hi]
      case isFalse hne =>
        by_cases hi : i = x
        · subst hi
          have : i ≠ a := fun h => hne h.symm
          simp [Memory.read, this]
        · simp [Memory.read, hi, ih]

@[simp] theorem Memory.writeBytes_nil (m : Memory) (a : Nat) : m.writeBytes a [] = m := rfl

end Sys2Proof.Machine
end

