-- ==== Sys2Proof/Laws/State.lean ====
section
/-! SUPPORT. One lemma per field of State per update of it, so that no later proof unfolds a record update. -/

namespace Sys2Proof.Machine

open Sys2Proof

/-! ### State.goto -/

@[simp] theorem State.goto_handle (i : Instr) (l : Label) (s : State) : (s.goto i l).handle = s.handle := rfl
@[simp] theorem State.goto_par (i : Instr) (l : Label) (s : State) : (s.goto i l).par = s.par := rfl
@[simp] theorem State.goto_ce (i : Instr) (l : Label) (s : State) : (s.goto i l).ce = s.ce := rfl
@[simp] theorem State.goto_phase (i : Instr) (l : Label) (s : State) : (s.goto i l).phase = .busy i l := rfl
@[simp] theorem State.goto_work (i : Instr) (l : Label) (s : State) : (s.goto i l).work = s.work := rfl
@[simp] theorem State.goto_out (i : Instr) (l : Label) (s : State) : (s.goto i l).out = s.out := rfl
@[simp] theorem State.goto_history (i : Instr) (l : Label) (s : State) : (s.goto i l).history = s.history := rfl
@[simp] theorem State.goto_faultMark (i : Instr) (l : Label) (s : State) : (s.goto i l).faultMark = s.faultMark := rfl
@[simp] theorem State.goto_refusalMark (i : Instr) (l : Label) (s : State) : (s.goto i l).refusalMark = s.refusalMark := rfl
@[simp] theorem State.goto_env (i : Instr) (l : Label) (s : State) : (s.goto i l).env = s.env := rfl

/-! ### State.setWork -/

@[simp] theorem State.setWork_handle (r : Work) (s : State) : (s.setWork r).handle = s.handle := rfl
@[simp] theorem State.setWork_par (r : Work) (s : State) : (s.setWork r).par = s.par := rfl
@[simp] theorem State.setWork_ce (r : Work) (s : State) : (s.setWork r).ce = s.ce := rfl
@[simp] theorem State.setWork_phase (r : Work) (s : State) : (s.setWork r).phase = s.phase := rfl
@[simp] theorem State.setWork_work (r : Work) (s : State) : (s.setWork r).work = r := rfl
@[simp] theorem State.setWork_out (r : Work) (s : State) : (s.setWork r).out = s.out := rfl
@[simp] theorem State.setWork_history (r : Work) (s : State) : (s.setWork r).history = s.history := rfl
@[simp] theorem State.setWork_faultMark (r : Work) (s : State) : (s.setWork r).faultMark = s.faultMark := rfl
@[simp] theorem State.setWork_refusalMark (r : Work) (s : State) : (s.setWork r).refusalMark = s.refusalMark := rfl
@[simp] theorem State.setWork_env (r : Work) (s : State) : (s.setWork r).env = s.env := rfl

/-! ### State.record -/

@[simp] theorem State.record_handle (e : Event) (s : State) : (s.record e).handle = s.handle := rfl
@[simp] theorem State.record_par (e : Event) (s : State) : (s.record e).par = s.par := rfl
@[simp] theorem State.record_ce (e : Event) (s : State) : (s.record e).ce = s.ce := rfl
@[simp] theorem State.record_phase (e : Event) (s : State) : (s.record e).phase = s.phase := rfl
@[simp] theorem State.record_work (e : Event) (s : State) : (s.record e).work = s.work := rfl
@[simp] theorem State.record_out (e : Event) (s : State) : (s.record e).out = s.out := rfl
@[simp] theorem State.record_history (e : Event) (s : State) : (s.record e).history = s.history ++ [e] := rfl
@[simp] theorem State.record_faultMark (e : Event) (s : State) : (s.record e).faultMark = s.faultMark := rfl
@[simp] theorem State.record_refusalMark (e : Event) (s : State) : (s.record e).refusalMark = s.refusalMark := rfl
@[simp] theorem State.record_env (e : Event) (s : State) : (s.record e).env = s.env := rfl

/-! ### State.afterBus -/

@[simp] theorem State.afterBus_handle (f : Frame) (s : State) : (s.afterBus f).handle = s.handle := rfl
@[simp] theorem State.afterBus_par (f : Frame) (s : State) : (s.afterBus f).par = s.par := rfl
@[simp] theorem State.afterBus_ce (f : Frame) (s : State) : (s.afterBus f).ce = s.ce := rfl
@[simp] theorem State.afterBus_phase (f : Frame) (s : State) : (s.afterBus f).phase = s.phase := rfl
@[simp] theorem State.afterBus_work (f : Frame) (s : State) : (s.afterBus f).work = s.work := rfl
@[simp] theorem State.afterBus_out (f : Frame) (s : State) : (s.afterBus f).out = s.out := rfl
@[simp] theorem State.afterBus_history (f : Frame) (s : State) : (s.afterBus f).history = s.history ++ [.bus f (s.env.busAnswer f)] := rfl
@[simp] theorem State.afterBus_faultMark (f : Frame) (s : State) : (s.afterBus f).faultMark = s.faultMark := rfl
@[simp] theorem State.afterBus_refusalMark (f : Frame) (s : State) : (s.afterBus f).refusalMark = s.refusalMark := rfl
@[simp] theorem State.afterBus_env (f : Frame) (s : State) : (s.afterBus f).env = s.env.popBus := rfl

/-! ### State.pinWrite -/

@[simp] theorem State.pinWrite_handle (level : Bool) (s : State) : (s.pinWrite level).handle = s.handle := rfl
@[simp] theorem State.pinWrite_par (level : Bool) (s : State) : (s.pinWrite level).par = s.par := rfl
@[simp] theorem State.pinWrite_ce (level : Bool) (s : State) : (s.pinWrite level).ce = level := rfl
@[simp] theorem State.pinWrite_phase (level : Bool) (s : State) : (s.pinWrite level).phase = s.phase := rfl
@[simp] theorem State.pinWrite_work (level : Bool) (s : State) : (s.pinWrite level).work = s.work := rfl
@[simp] theorem State.pinWrite_out (level : Bool) (s : State) : (s.pinWrite level).out = s.out := rfl
@[simp] theorem State.pinWrite_history (level : Bool) (s : State) : (s.pinWrite level).history = s.history ++ [.pin level] := rfl
@[simp] theorem State.pinWrite_faultMark (level : Bool) (s : State) : (s.pinWrite level).faultMark = s.faultMark := rfl
@[simp] theorem State.pinWrite_refusalMark (level : Bool) (s : State) : (s.pinWrite level).refusalMark = s.refusalMark := rfl
@[simp] theorem State.pinWrite_env (level : Bool) (s : State) : (s.pinWrite level).env = s.env := rfl

/-! ### State.tickRead -/

@[simp] theorem State.tickRead_handle (s : State) : (s.tickRead).handle = s.handle := rfl
@[simp] theorem State.tickRead_par (s : State) : (s.tickRead).par = s.par := rfl
@[simp] theorem State.tickRead_ce (s : State) : (s.tickRead).ce = s.ce := rfl
@[simp] theorem State.tickRead_phase (s : State) : (s.tickRead).phase = s.phase := rfl
@[simp] theorem State.tickRead_work (s : State) : (s.tickRead).work = s.work := rfl
@[simp] theorem State.tickRead_out (s : State) : (s.tickRead).out = s.out := rfl
@[simp] theorem State.tickRead_history (s : State) : (s.tickRead).history = s.history ++ [.tick s.tickReading] := rfl
@[simp] theorem State.tickRead_faultMark (s : State) : (s.tickRead).faultMark = s.faultMark := rfl
@[simp] theorem State.tickRead_refusalMark (s : State) : (s.tickRead).refusalMark = s.refusalMark := rfl
@[simp] theorem State.tickRead_env (s : State) : (s.tickRead).env = { s.env with tick := s.env.nextTick, tickSteps := s.env.tickSteps.tail, tickReads := s.env.tickReads + 1 } := rfl

/-! ### State.popHook -/

@[simp] theorem State.popHook_handle (s : State) : (s.popHook).handle = s.handle := rfl
@[simp] theorem State.popHook_par (s : State) : (s.popHook).par = s.par := rfl
@[simp] theorem State.popHook_ce (s : State) : (s.popHook).ce = s.ce := rfl
@[simp] theorem State.popHook_phase (s : State) : (s.popHook).phase = s.phase := rfl
@[simp] theorem State.popHook_work (s : State) : (s.popHook).work = s.work := rfl
@[simp] theorem State.popHook_out (s : State) : (s.popHook).out = s.out := rfl
@[simp] theorem State.popHook_history (s : State) : (s.popHook).history = s.history := rfl
@[simp] theorem State.popHook_faultMark (s : State) : (s.popHook).faultMark = s.faultMark := rfl
@[simp] theorem State.popHook_refusalMark (s : State) : (s.popHook).refusalMark = s.refusalMark := rfl
@[simp] theorem State.popHook_env (s : State) : (s.popHook).env = { s.env with hook := s.env.hook.tail, hookLooks := s.env.hookLooks + 1 } := rfl

/-! ### State.popHost -/

@[simp] theorem State.popHost_handle (s : State) : (s.popHost).handle = s.handle := rfl
@[simp] theorem State.popHost_par (s : State) : (s.popHost).par = s.par := rfl
@[simp] theorem State.popHost_ce (s : State) : (s.popHost).ce = s.ce := rfl
@[simp] theorem State.popHost_phase (s : State) : (s.popHost).phase = s.phase := rfl
@[simp] theorem State.popHost_work (s : State) : (s.popHost).work = s.work := rfl
@[simp] theorem State.popHost_out (s : State) : (s.popHost).out = s.out := rfl
@[simp] theorem State.popHost_history (s : State) : (s.popHost).history = s.history := rfl
@[simp] theorem State.popHost_faultMark (s : State) : (s.popHost).faultMark = s.faultMark := rfl
@[simp] theorem State.popHost_refusalMark (s : State) : (s.popHost).refusalMark = s.refusalMark := rfl
@[simp] theorem State.popHost_env (s : State) : (s.popHost).env = { s.env with host := s.env.host.tail } := rfl

/-! ### State.deliver -/

@[simp] theorem State.deliver_handle (r : Response) (s : State) : (s.deliver r).handle = s.handle := rfl
@[simp] theorem State.deliver_par (r : Response) (s : State) : (s.deliver r).par = s.par := rfl
@[simp] theorem State.deliver_ce (r : Response) (s : State) : (s.deliver r).ce = s.ce := rfl
@[simp] theorem State.deliver_phase (r : Response) (s : State) : (s.deliver r).phase = .idle := rfl
@[simp] theorem State.deliver_work (r : Response) (s : State) : (s.deliver r).work = Work.empty := rfl
@[simp] theorem State.deliver_out (r : Response) (s : State) : (s.deliver r).out = s.out.writeBytes 0 (r.data.getD []) := rfl
@[simp] theorem State.deliver_history (r : Response) (s : State) : (s.deliver r).history = s.history ++ [.response r] := rfl
@[simp] theorem State.deliver_faultMark (r : Response) (s : State) : (s.deliver r).faultMark = s.faultMark := rfl
@[simp] theorem State.deliver_refusalMark (r : Response) (s : State) : (s.deliver r).refusalMark = s.refusalMark := rfl
@[simp] theorem State.deliver_env (r : Response) (s : State) : (s.deliver r).env = s.env := rfl

/-! ### State.init -/

@[simp] theorem State.init_handle (h : Handle) (p : Params) (ce : Bool) (e : Env) :
    (State.init h p ce e).handle = h := rfl
@[simp] theorem State.init_par (h : Handle) (p : Params) (ce : Bool) (e : Env) :
    (State.init h p ce e).par = p := rfl
@[simp] theorem State.init_ce (h : Handle) (p : Params) (ce : Bool) (e : Env) :
    (State.init h p ce e).ce = ce := rfl
@[simp] theorem State.init_phase (h : Handle) (p : Params) (ce : Bool) (e : Env) :
    (State.init h p ce e).phase = .idle := rfl
@[simp] theorem State.init_work (h : Handle) (p : Params) (ce : Bool) (e : Env) :
    (State.init h p ce e).work = Work.empty := rfl
@[simp] theorem State.init_out (h : Handle) (p : Params) (ce : Bool) (e : Env) :
    (State.init h p ce e).out = [] := rfl
@[simp] theorem State.init_history (h : Handle) (p : Params) (ce : Bool) (e : Env) :
    (State.init h p ce e).history = [] := rfl
@[simp] theorem State.init_faultMark (h : Handle) (p : Params) (ce : Bool) (e : Env) :
    (State.init h p ce e).faultMark = none := rfl
@[simp] theorem State.init_refusalMark (h : Handle) (p : Params) (ce : Bool) (e : Env) :
    (State.init h p ce e).refusalMark = none := rfl
@[simp] theorem State.init_env (h : Handle) (p : Params) (ce : Bool) (e : Env) :
    (State.init h p ce e).env = e := rfl

/-! ### Env.popBus -/

@[simp] theorem Env.popBus_bus (e : Env) : e.popBus.bus = e.bus.tail := rfl
@[simp] theorem Env.popBus_busCount (e : Env) : e.popBus.busCount = e.busCount + 1 := rfl
@[simp] theorem Env.popBus_tick (e : Env) : e.popBus.tick = e.tick := rfl
@[simp] theorem Env.popBus_tickSteps (e : Env) : e.popBus.tickSteps = e.tickSteps := rfl
@[simp] theorem Env.popBus_tickReads (e : Env) : e.popBus.tickReads = e.tickReads := rfl
@[simp] theorem Env.popBus_hook (e : Env) : e.popBus.hook = e.hook := rfl
@[simp] theorem Env.popBus_hookLooks (e : Env) : e.popBus.hookLooks = e.hookLooks := rfl
@[simp] theorem Env.popBus_host (e : Env) : e.popBus.host = e.host := rfl

end Sys2Proof.Machine
end

