-- ==== Sys2Proof/Laws/Ops.lean ====
section
/-! SUPPORT. One law per shared operation, cited instead of unfolding it. -/

namespace Sys2Proof.Machine

open Sys2Proof

/-! ## Reading a working register -/

@[simp] theorem need_some {α : Type} (v : α) (s : State) (k : α → Out) : need (some v) s k = k v := rfl

@[simp] theorem need_none {α : Type} (s : State) (k : α → Out) :
    need (none : Option α) s k = recordFault .unwrittenWorkingRegister s := rfl

/-! ## Where an instruction stands -/

theorem State.pos_busy {s : State} {i : Instr} {l : Label} (h : s.phase = .busy i l) : s.pos = l := by
  simp [State.pos, h]

theorem State.pos_idle {s : State} (h : s.phase = .idle) : s.pos = .entry := by
  simp [State.pos, h]

/-! ## The device oracle -/

@[simp] theorem rxCount_nil : rxCount [] = 0 := rfl
@[simp] theorem rxCount_cons (g : Seg) (f : Frame) : rxCount (g :: f) = Seg.rxLen g + rxCount f := rfl
@[simp] theorem rxLen_wr (bytes : List Byte) : Seg.rxLen (wr bytes) = 0 := rfl
@[simp] theorem rxLen_rd (n : Nat) : Seg.rxLen (rd n) = n := rfl
@[simp] theorem rxLen_xch (bytes : List Byte) : Seg.rxLen (xch bytes) = bytes.length := rfl

@[simp] theorem fitAnswer_length (k n : Nat) (bytes : List Byte) : (fitAnswer k n bytes).length = n := by
  simp [fitAnswer]

/-- An answer of the right length is taken as it is. -/
theorem fitAnswer_exact (k : Nat) (bytes : List Byte) : fitAnswer k bytes.length bytes = bytes := by
  apply List.ext_getElem
  · simp
  · intro i h1 h2
    simp [fitAnswer, h2]

/-- A scripted answer of the right length is the oracle's answer. -/
theorem busAnswer_scripted {e : Env} {bytes : List Byte} {rest : List BusAnswer} {f : Frame}
    (h : e.bus = .ok bytes :: rest) (hn : bytes.length = rxCount f) : e.busAnswer f = .ok bytes := by
  simp [Env.busAnswer, h, ← hn, fitAnswer_exact]

/-- A scripted bus error is the oracle's answer. -/
theorem busAnswer_scripted_err {e : Env} {rest : List BusAnswer} {f : Frame} (h : e.bus = .err :: rest) :
    e.busAnswer f = .err := by
  simp [Env.busAnswer, h]

/-! ## One transaction -/

/-- A transaction always answers a next state, and `State.transacted` says which. -/
theorem transact_eq (i : Instr) (f : Frame) (next : Label) (keep : List Byte → Work → Work) (s : State) :
    transact i f next keep s = .next (s.transacted i f next fun rx => keep rx s.work) := by
  cases h : s.env.busAnswer f <;> simp [transact, settle, State.transacted, State.afterBus, h]

theorem transacted_ok {s : State} {i : Instr} {f : Frame} {next : Label} {work : List Byte → Work} {rx : List Byte}
    (h : s.env.busAnswer f = .ok rx) :
    s.transacted i f next work = { s with env := s.env.popBus, history := s.history ++ [.bus f (.ok rx)],
                                          work := work rx, phase := .busy i next } := by
  simp [State.transacted, h]

theorem transacted_err {s : State} {i : Instr} {f : Frame} {next : Label} {work : List Byte → Work}
    (h : s.env.busAnswer f = .err) :
    s.transacted i f next work = { s with env := s.env.popBus, history := s.history ++ [.bus f .err],
                                          phase := .busy i .fail } := by
  simp [State.transacted, h]

/-! ## The end of an operation -/

/-- A response without output bytes leaves the output buffer alone. -/
theorem deliver_without_data (s : State) (r : Response) (h : r.data = none) : s.deliver r = s.responded r := by
  simp [State.deliver, State.responded, h]

theorem raise_eq (e : Result) (s : State) : raise e s = .next (s.responded { result := e }) := by
  simp [raise, deliver_without_data]

/-! ## The hook -/

theorem awaitHook_returned {s : State} {resume : State → Out} (h : s.env.hookReturned = true) :
    awaitHook s resume = resume s.popHook := by
  simp [awaitHook, h]

theorem awaitHook_waiting {s : State} {resume : State → Out} (h : s.env.hookReturned = false) :
    awaitHook s resume = .next s.popHook := by
  simp [awaitHook, h]

/-! ## Runs -/

@[simp] theorem runs_zero (s : State) : runs 0 s = .next s := rfl

/-- One step, then the rest. -/
theorem runs_succ {k : Nat} {s t : State} (h : step s = .next t) : runs (k + 1) s = runs k t := by
  have h' : Sys2Proof.core.step s = .next t := h
  simp only [runs, Host.Core.run, h']
  rfl

/-- A run of j + k steps is a run of j and then one of k. -/
theorem runs_add {j k : Nat} {s t : State} (h : runs j s = .next t) : runs (j + k) s = runs k t := by
  induction j generalizing s with
  | zero =>
    rw [runs_zero] at h
    cases h
    rw [Nat.zero_add]
  | succ j ih =>
    have e : j + 1 + k = j + k + 1 := by omega
    cases hs : step s with
    | next u =>
      rw [e, runs_succ hs]
      exact ih (by rwa [runs_succ hs] at h)
    | fault r =>
      have h' : Sys2Proof.core.step s = .fault r := hs
      simp [runs, Host.Core.run, h'] at h
    | refused r =>
      have h' : Sys2Proof.core.step s = .refused r := hs
      simp [runs, Host.Core.run, h'] at h

/-! ## The sequencer -/

/-- An unmarked state steps as its host and phase say. -/
theorem step_unmarked {s : State} (h : s.unmarked) : step s = hostStep s := by
  simp [step, sequencerStep, h.1, h.2]

/-- While an instruction is in progress and no other request is put, a step is one step of it. -/
theorem step_busy {s : State} {i : Instr} {l : Label} (hu : s.unmarked) (hp : s.phase = .busy i l)
    (hh : keepsProtocol s.env.host = true) : step s = exec i s := by
  rw [step_unmarked hu]
  cases h : s.env.host with
  | nil => simp [hostStep, h, blockStep, hp]
  | cons a rest =>
    cases a with
    | call r => simp [hostStep, h, pendingCall, hp, blockStep]
    | intrude r => simp [keepsProtocol, h] at hh
    | pass => simp [keepsProtocol, h] at hh

/-- A ready request that decodes to a well-formed instruction is accepted in one step. -/
theorem step_ready {s : State} {r : Request} {rest : List HostAct} {i : Instr} (h : s.ready r rest)
    (hd : decodeRequest r = .ok i) (hw : i.wf s.par = true) :
    step s = .next { s with phase := .busy i .entry, history := s.history ++ [.request r],
                            env := s.env.withHost rest } := by
  obtain ⟨hu, hp, hh, -⟩ := h
  rw [step_unmarked hu]
  simp [hostStep, hh, pendingCall, hp, accept, hd, hw, State.popHost, State.goto, State.record, Env.withHost]

end Sys2Proof.Machine
end

