-- ==== Sys2Proof/Laws/PerInstr.lean ====
section
/-! SUPPORT. Per-instruction laws of the syntax. Family RoundTrip: the code of a well-formed instruction decodes to
it, with every operand. -/

namespace Sys2Proof

/-! ## Small lemmas of the command byte -/

/-- A command byte of format CMD_REG decodes by its base (R86). -/
theorem decodeCommand_read (a5 : BitVec 5) : decodeCommand (regCommand 0x00#8 a5) = some .rRegister := by
  revert a5; decide

theorem decodeCommand_write (a5 : BitVec 5) : decodeCommand (regCommand 0x20#8 a5) = some .wRegister := by
  revert a5; decide

/-- The address field of a command byte is the one it was built from (R80). -/
theorem cmdAddr_read (a5 : BitVec 5) : cmdAddr (regCommand 0x00#8 a5) = a5 := by
  revert a5; decide

theorem cmdAddr_write (a5 : BitVec 5) : cmdAddr (regCommand 0x20#8 a5) = a5 := by
  revert a5; decide

@[simp] theorem isPlain_wr (bytes : List Byte) : (wr bytes).isPlain = true := rfl
@[simp] theorem isPlain_rd (n : Nat) : (rd n).isPlain = true := rfl
@[simp] theorem isPlain_xch (bytes : List Byte) : (xch bytes).isPlain = true := rfl
@[simp] theorem kind_wr (bytes : List Byte) : (wr bytes).kind = .wr bytes := rfl
@[simp] theorem kind_rd (n : Nat) : (rd n).kind = .rd n := rfl
@[simp] theorem kind_xch (bytes : List Byte) : (xch bytes).kind = .xch bytes := rfl

namespace Laws.RoundTrip

/-- Decoding the code of the instruction gives the instruction back. -/
def Statement (i : Instr) : Prop := ∀ p : Params, i.wf p = true → decode (encode i) = .ok i

theorem rRegister (a5 : BitVec 5) (n : Nat) : Statement (.rRegister a5 n) := by
  intro p h
  have hw : regWidthOk n = true := h
  simp [encode, decode, frameReadReg, decodeFrame, decodeKinds, decodeRead, decodeCommand_read, cmdAddr_read, hw]

theorem wRegister (a5 : BitVec 5) (bytes : List Byte) : Statement (.wRegister a5 bytes) := by
  intro p h
  have hw : regWidthOk bytes.length = true := h
  simp [encode, decode, frameWriteReg, decodeFrame, decodeKinds, decodeWrite, decodeCommand_write, cmdAddr_write, hw]

theorem rRxPlWid : Statement .rRxPlWid := by
  intro p _
  decide

theorem rRxPayload (w : Byte) : Statement (.rRxPayload w) := by
  intro p h
  have hw : w.toNat ≤ 32 := of_decide_eq_true h
  have hc : decodeCommand 0x61#8 = some .rRxPayload := by decide
  by_cases h0 : w = 0#8
  · subst h0
    decide
  · have h1 : w.toNat ≠ 0 := fun e => h0 (BitVec.eq_of_toNat_eq (by simpa using e))
    simp [encode, decode, frameReadPayload, h0, decodeFrame, decodeKinds, decodeExchange, h1, hc, Config.maxPayload, hw]

theorem wTxPayload (payload : List Byte) : Statement (.wTxPayload payload) := by
  intro p h
  have hc : decodeCommand 0xA0#8 = some .wTxPayload := by decide
  cases payload with
  | nil => decide
  | cons b bs =>
    have hw : bs.length + 1 ≤ 32 := by simpa [Instr.wf, Config.maxPayload] using h
    simp [encode, decode, frameWritePayload, decodeFrame, decodeKinds, decodeWrite, hc, Config.maxPayload]
    omega

theorem cmdFlushTx : Statement .cmdFlushTx := by
  intro p _
  decide

theorem cmdFlushRx : Statement .cmdFlushRx := by
  intro p _
  decide

theorem cmdNop : Statement .cmdNop := by
  intro p _
  decide

theorem readReg (addr : Byte) : Statement (.readReg addr) := fun _ _ => rfl
theorem writeReg (addr value : Byte) : Statement (.writeReg addr value) := fun _ _ => rfl
theorem readAddrReg (addr : Byte) (len : Nat) : Statement (.readAddrReg addr len) := fun _ _ => rfl

theorem writeAddrReg (addr : Byte) (len : Nat) (data : List Byte) : Statement (.writeAddrReg addr len data) := by
  intro p h
  have hd : data.length = len := by simp [Instr.wf] at h; exact h.1
  simp [encode, decode, decodeRequest, checkData, hd]

theorem writeTxPayload (len : Nat) (data : List Byte) : Statement (.writeTxPayload len data) := by
  intro p h
  have hd : data.length = len := by simp [Instr.wf] at h; exact h.1
  simp [encode, decode, decodeRequest, checkData, hd]

theorem flushTx : Statement .flushTx := fun _ _ => rfl
theorem flushRx : Statement .flushRx := fun _ _ => rfl
theorem getStatus : Statement .getStatus := fun _ _ => rfl
theorem getFifoStatus : Statement .getFifoStatus := fun _ _ => rfl
theorem powerUp : Statement .powerUp := fun _ _ => rfl
theorem powerDown : Statement .powerDown := fun _ _ => rfl
theorem enterReceive : Statement .enterReceive := fun _ _ => rfl
theorem enterTransmit : Statement .enterTransmit := fun _ _ => rfl
theorem enterStandby : Statement .enterStandby := fun _ _ => rfl

theorem send (len : Nat) (data : List Byte) : Statement (.send len data) := by
  intro p h
  have hd : data.length = len := by simp [Instr.wf] at h; exact h.1
  simp [encode, decode, decodeRequest, checkData, hd]

theorem receive (cap timeout : Nat) : Statement (.receive cap timeout) := fun _ _ => rfl

end Laws.RoundTrip

end Sys2Proof
end

