-- ==== Sys2Proof/Laws/Exec.lean ====
section
/-! SUPPORT. What one step of an instruction can do, said once (R12): the inversion law of exec. -/

namespace Sys2Proof.Machine

open Sys2Proof

/-! ## Frames the block issues begin with a command byte other than NOP -/

@[simp] theorem startsLegally_readReg (a5 : BitVec 5) (n : Nat) : startsLegally (frameReadReg a5 n) = true := by
  simp [startsLegally, commandOf, frameReadReg, Seg.isPlain, wr, rd, decodeCommand_read]

@[simp] theorem startsLegally_writeReg (a5 : BitVec 5) (bytes : List Byte) :
    startsLegally (frameWriteReg a5 bytes) = true := by
  simp [startsLegally, commandOf, frameWriteReg, Seg.isPlain, wr, decodeCommand_write]

@[simp] theorem startsLegally_readWidth : startsLegally frameReadWidth = true := by decide

@[simp] theorem startsLegally_readPayload (w : Byte) : startsLegally (frameReadPayload w) = true := by
  have hc : decodeCommand 0x61#8 = some .rRxPayload := by decide
  unfold frameReadPayload
  split <;> simp [startsLegally, commandOf, Seg.isPlain, xch, rd, hc]

@[simp] theorem startsLegally_writePayload (payload : List Byte) :
    startsLegally (frameWritePayload payload) = true := by
  have hc : decodeCommand 0xA0#8 = some .wTxPayload := by decide
  cases payload <;> simp [startsLegally, commandOf, frameWritePayload, Seg.isPlain, wr, hc]

@[simp] theorem startsLegally_flushTx : startsLegally frameFlushTx = true := by decide
@[simp] theorem startsLegally_flushRx : startsLegally frameFlushRx = true := by decide

/-! ## The inversion law -/

/-- What one step of instruction i does to state s, giving t. The guards say which parts of the environment an
action leaves alone. -/
inductive Action (i : Instr) (s t : State) : Prop where
  /-- One bus transaction (R13). -/
  | bus (f : Frame) (a : BusAnswer) (l : Label) (work : Work) (env : Env) (hl : startsLegally f = true)
      (ht : env.tick = s.env.tick) (hh : env.host = s.env.host)
      (h : t = { s with env := env, work := work, phase := .busy i l, history := s.history ++ [.bus f a] })
  /-- One pin write (R16). -/
  | pin (level : Bool) (l : Label) (work : Work)
      (h : t = { s with ce := level, work := work, phase := .busy i l, history := s.history ++ [.pin level] })
  /-- One tick reading (R232). -/
  | tick (l : Label) (work : Work) (h : t = { s.tickRead with work := work, phase := .busy i l })
  /-- One yield (R235). -/
  | yield (work : Work)
      (h : t = { s with work := work, phase := .busy i .yld, history := s.history ++ [.yield] })
  /-- A look at a hook that has not returned (R235). -/
  | wait (h : t = s.popHook)
  /-- One response; only a host operation gives one (R220). -/
  | response (r : Response) (hi : i.isHostOp = true) (h : t = s.deliver r)
  /-- The end of a bus command that no operation issued (log entry 9). -/
  | ended (hi : i.isHostOp = false) (h : t = { s with phase := .idle, work := Work.empty })
  /-- NOP moves on without an action (log entry 10). -/
  | moved (hi : i = .cmdNop) (h : t = s.goto .cmdNop .ret)
  /-- A model fault is recorded (R229). -/
  | fault (f : Fault) (work : Work) (h : t = { s with work := work, faultMark := s.faultMark.or (some f) })

theorem transact_action {i : Instr} {f : Frame} {next : Label} {keep : List Byte → Work → Work} {s : State}
    (hl : startsLegally f = true) : ∃ t, transact i f next keep s = .next t ∧ Action i s t := by
  rw [transact_eq]
  refine ⟨_, rfl, ?_⟩
  cases h : s.env.busAnswer f with
  | ok rx =>
    rw [transacted_ok h]
    exact .bus f (.ok rx) next _ s.env.popBus hl rfl rfl rfl
  | err =>
    rw [transacted_err h]
    exact .bus f .err .fail s.work s.env.popBus hl rfl rfl rfl

/-- Setting working registers before an action is part of the step of that action (R12). -/
theorem setWork_bus {i : Instr} {f : Frame} {next : Label} {keep : List Byte → Work → Work} {s : State} {r : Work}
    (hl : startsLegally f = true) : ∃ t, transact i f next keep (s.setWork r) = .next t ∧ Action i s t := by
  rw [transact_eq]
  refine ⟨_, rfl, ?_⟩
  cases h : (s.setWork r).env.busAnswer f with
  | ok rx =>
    rw [transacted_ok h]
    exact .bus f (.ok rx) next (keep rx r) s.env.popBus hl rfl rfl rfl
  | err =>
    rw [transacted_err h]
    exact .bus f .err .fail r s.env.popBus hl rfl rfl rfl

theorem drivePin_action {i : Instr} {level : Bool} {l : Label} {s : State} {r : Work} :
    ∃ t, drivePin i level l (s.setWork r) = .next t ∧ Action i s t :=
  ⟨_, rfl, .pin level l r rfl⟩

theorem noPosition_action {i : Instr} {s : State} : ∃ t, noPosition s = .next t ∧ Action i s t :=
  ⟨_, rfl, .fault .noSuchPosition s.work rfl⟩

theorem need_action {α : Type} {i : Instr} {s : State} {r : Option α} {k : α → Out}
    (h : ∀ v, ∃ t, k v = .next t ∧ Action i s t) : ∃ t, need r s k = .next t ∧ Action i s t := by
  cases r with
  | some v => exact h v
  | none => exact ⟨_, rfl, .fault .unwrittenWorkingRegister s.work rfl⟩

theorem raise_action {i : Instr} {e : Result} {s : State} (hi : i.isHostOp = true) :
    ∃ t, raise e s = .next t ∧ Action i s t := ⟨_, rfl, .response _ hi rfl⟩

theorem returnOk_action {i : Instr} {r : Response} {s : State} (hi : i.isHostOp = true) :
    ∃ t, returnOk r s = .next t ∧ Action i s t := ⟨_, rfl, .response _ hi rfl⟩

theorem endCommand_action {i : Instr} {s : State} (hi : i.isHostOp = false) :
    ∃ t, endCommand s = .next t ∧ Action i s t := ⟨_, rfl, .ended hi rfl⟩

theorem yieldStep_action {i : Instr} {s : State} {r : Work} :
    ∃ t, yieldStep i (s.setWork r) = .next t ∧ Action i s t := ⟨_, rfl, .yield r rfl⟩

theorem writeConfig_action {i : Instr} {change : Byte → Byte} {next : Label} {s : State} :
    ∃ t, writeConfig i change next s = .next t ∧ Action i s t :=
  need_action fun _ => transact_action (startsLegally_writeReg _ _)

theorem awaitHook_action {i : Instr} {s : State} {f : Frame} {next : Label} {keep : List Byte → Work → Work}
    (hl : startsLegally f = true) :
    ∃ t, (awaitHook s fun s => transact i f next keep s) = .next t ∧ Action i s t := by
  unfold awaitHook
  split
  · dsimp only
    rw [transact_eq]
    refine ⟨_, rfl, ?_⟩
    cases h : s.popHook.env.busAnswer f with
    | ok rx =>
      rw [transacted_ok h]
      exact .bus f (.ok rx) next _ s.popHook.env.popBus hl rfl rfl rfl
    | err =>
      rw [transacted_err h]
      exact .bus f .err .fail s.work s.popHook.env.popBus hl rfl rfl rfl
  · exact ⟨_, rfl, .wait rfl⟩

theorem sendLoop_action {len : Nat} {data : List Byte} {off : Nat} {s : State} {r : Work} :
    ∃ t, sendLoop len data off (s.setWork r) = .next t ∧ Action (.send len data) s t := by
  unfold sendLoop
  split
  · exact setWork_bus (s := s) (startsLegally_writePayload _)
  · exact drivePin_action (s := s)

theorem sendNext_action {len : Nat} {data : List Byte} {s : State} {r : Work} :
    ∃ t, sendNext len data (s.setWork r) = .next t ∧ Action (.send len data) s t := by
  simp only [sendNext, State.setWork_work]
  cases r.off with
  | none => exact ⟨_, rfl, .fault .unwrittenWorkingRegister r rfl⟩
  | some off =>
    cases r.n with
    | none => exact ⟨_, rfl, .fault .unwrittenWorkingRegister r rfl⟩
    | some n => exact sendLoop_action

theorem sendTest_action {len : Nat} {data : List Byte} {st : Byte} {polls : Nat} {s : State} {r : Work} :
    ∃ t, sendTest len data st polls (s.setWork r) = .next t ∧ Action (.send len data) s t := by
  unfold sendTest
  split
  · exact setWork_bus (startsLegally_writeReg _ _)
  · split
    · split
      · exact setWork_bus (startsLegally_writeReg _ _)
      · exact sendNext_action
    · split
      · exact setWork_bus (startsLegally_writeReg _ _)
      · exact yieldStep_action

theorem execSend_action (len : Nat) (data : List Byte) (s : State) :
    ∃ t, exec (.send len data) s = .next t ∧ Action (.send len data) s t := by
  simp only [exec, execSend]
  cases s.pos with
  | entry => exact transact_action (startsLegally_readReg _ _)
  | etx =>
    refine need_action fun st => ?_
    split
    · exact raise_action rfl
    · exact transact_action (startsLegally_readReg _ _)
  | etw => exact writeConfig_action
  | etp => exact drivePin_action (r := s.work)
  | chunk => exact sendLoop_action (r := s.work)
  | poll => exact setWork_bus (startsLegally_readReg _ _)
  | test => exact need_action fun st => need_action fun polls => sendTest_action
  | ack => exact sendNext_action (r := s.work)
  | yld => exact awaitHook_action (startsLegally_readReg _ _)
  | flush => exact transact_action startsLegally_flushTx
  | standby => exact drivePin_action (r := s.work)
  | timeout => exact raise_action rfl
  | ret => exact returnOk_action rfl
  | fail => exact raise_action rfl
  | _ => exact noPosition_action

theorem receiveTest_action {cap timeout : Nat} {fs : Byte} {s : State} :
    ∃ t, receiveTest cap timeout fs s = .next t ∧ Action (.receive cap timeout) s t := by
  unfold receiveTest
  split
  · split
    · exact yieldStep_action (r := s.work)
    · exact ⟨_, rfl, .tick .deadline _ rfl⟩
  · exact transact_action startsLegally_readWidth

theorem execReceive_action (cap timeout : Nat) (s : State) :
    ∃ t, exec (.receive cap timeout) s = .next t ∧ Action (.receive cap timeout) s t := by
  simp only [exec, execReceive]
  cases s.pos with
  | entry =>
    dsimp only
    split
    · exact raise_action rfl
    · exact ⟨_, rfl, .tick .erx _ rfl⟩
  | erx => exact transact_action (startsLegally_readReg _ _)
  | erw => exact writeConfig_action
  | erp => exact drivePin_action (r := s.work)
  | poll => exact transact_action (startsLegally_readReg _ _)
  | test => exact need_action fun fs => receiveTest_action
  | deadline =>
    refine need_action fun t0 => need_action fun now => ?_
    split
    · exact raise_action rfl
    · exact yieldStep_action (r := s.work)
  | yld => exact awaitHook_action (startsLegally_readReg _ _)
  | pay =>
    refine need_action fun w => ?_
    split
    · exact transact_action (startsLegally_readPayload _)
    · exact ⟨_, rfl, .fault .rxWidthInvalid s.work rfl⟩
  | sby => exact need_action fun rx => drivePin_action
  | ret => exact need_action fun w => need_action fun rx => need_action fun pipe => returnOk_action rfl
  | fail => exact raise_action rfl
  | _ => exact noPosition_action

/-- A bus command (log entry 9): one transaction, then the end. -/
theorem command_action {i : Instr} {s : State} {f : Frame} {keep : List Byte → Work → Work} (hi : i.isHostOp = false)
    (hl : startsLegally f = true) :
    ∃ t, (match s.pos with
      | .entry => transact i f .ret keep s
      | .ret => endCommand s
      | .fail => endCommand s
      | _ => noPosition s) = .next t ∧ Action i s t := by
  cases s.pos with
  | entry => exact transact_action hl
  | ret => exact endCommand_action hi
  | fail => exact endCommand_action hi
  | _ => exact noPosition_action

/-- A step of any instruction is one action, and it always answers a next state. -/
theorem exec_action (i : Instr) (s : State) : ∃ t, exec i s = .next t ∧ Action i s t := by
  cases i with
  | rRegister a5 n => exact command_action rfl (startsLegally_readReg _ _)
  | wRegister a5 bytes => exact command_action rfl (startsLegally_writeReg _ _)
  | rRxPlWid => exact command_action rfl startsLegally_readWidth
  | rRxPayload w => exact command_action rfl (startsLegally_readPayload _)
  | wTxPayload payload => exact command_action rfl (startsLegally_writePayload _)
  | cmdFlushTx => exact command_action rfl startsLegally_flushTx
  | cmdFlushRx => exact command_action rfl startsLegally_flushRx
  | cmdNop =>
    simp only [exec, execCmdNop]
    cases s.pos with
    | entry => exact ⟨_, rfl, .moved rfl rfl⟩
    | ret => exact endCommand_action rfl
    | fail => exact endCommand_action rfl
    | _ => exact noPosition_action
  | readReg addr =>
    simp only [exec, execReadReg]
    cases s.pos with
    | entry => exact transact_action (startsLegally_readReg _ _)
    | ret => exact need_action fun rx => returnOk_action rfl
    | fail => exact raise_action rfl
    | _ => exact noPosition_action
  | writeReg addr value =>
    simp only [exec, execWriteReg]
    cases s.pos with
    | entry => exact transact_action (startsLegally_writeReg _ _)
    | ret => exact returnOk_action rfl
    | fail => exact raise_action rfl
    | _ => exact noPosition_action
  | readAddrReg addr len =>
    simp only [exec, execReadAddrReg]
    cases s.pos with
    | entry =>
      dsimp only
      split
      · exact transact_action (startsLegally_readReg _ _)
      · exact raise_action rfl
    | ret => exact need_action fun rx => returnOk_action rfl
    | fail => exact raise_action rfl
    | _ => exact noPosition_action
  | writeAddrReg addr len data =>
    simp only [exec, execWriteAddrReg]
    cases s.pos with
    | entry =>
      dsimp only
      split
      · exact transact_action (startsLegally_writeReg _ _)
      · exact raise_action rfl
    | ret => exact returnOk_action rfl
    | fail => exact raise_action rfl
    | _ => exact noPosition_action
  | writeTxPayload len data =>
    simp only [exec, execWriteTxPayload]
    cases s.pos with
    | entry =>
      dsimp only
      split
      · exact transact_action (startsLegally_writePayload _)
      · exact raise_action rfl
    | ret => exact returnOk_action rfl
    | fail => exact raise_action rfl
    | _ => exact noPosition_action
  | flushTx =>
    simp only [exec, execFlushTx]
    cases s.pos with
    | entry => exact transact_action startsLegally_flushTx
    | ret => exact returnOk_action rfl
    | fail => exact raise_action rfl
    | _ => exact noPosition_action
  | flushRx =>
    simp only [exec, execFlushRx]
    cases s.pos with
    | entry => exact transact_action startsLegally_flushRx
    | ret => exact returnOk_action rfl
    | fail => exact raise_action rfl
    | _ => exact noPosition_action
  | getStatus =>
    simp only [exec, execGetStatus]
    cases s.pos with
    | entry => exact transact_action (startsLegally_readReg _ _)
    | ret => exact need_action fun st => returnOk_action rfl
    | fail => exact raise_action rfl
    | _ => exact noPosition_action
  | getFifoStatus =>
    simp only [exec, execGetFifoStatus]
    cases s.pos with
    | entry => exact transact_action (startsLegally_readReg _ _)
    | ret => exact need_action fun fs => returnOk_action rfl
    | fail => exact raise_action rfl
    | _ => exact noPosition_action
  | powerUp =>
    simp only [exec, execPowerUp]
    cases s.pos with
    | entry => exact transact_action (startsLegally_readReg _ _)
    | w => exact writeConfig_action
    | ret => exact returnOk_action rfl
    | fail => exact raise_action rfl
    | _ => exact noPosition_action
  | powerDown =>
    simp only [exec, execPowerDown]
    cases s.pos with
    | entry => exact transact_action (startsLegally_readReg _ _)
    | w => exact writeConfig_action
    | ret => exact returnOk_action rfl
    | fail => exact raise_action rfl
    | _ => exact noPosition_action
  | enterReceive =>
    simp only [exec, execEnterReceive]
    cases s.pos with
    | entry => exact transact_action (startsLegally_readReg _ _)
    | w => exact writeConfig_action
    | p => exact drivePin_action (r := s.work)
    | ret => exact returnOk_action rfl
    | fail => exact raise_action rfl
    | _ => exact noPosition_action
  | enterTransmit =>
    simp only [exec, execEnterTransmit]
    cases s.pos with
    | entry => exact transact_action (startsLegally_readReg _ _)
    | w => exact writeConfig_action
    | p => exact drivePin_action (r := s.work)
    | ret => exact returnOk_action rfl
    | fail => exact raise_action rfl
    | _ => exact noPosition_action
  | enterStandby =>
    simp only [exec, execEnterStandby]
    cases s.pos with
    | entry => exact drivePin_action (r := s.work)
    | ret => exact returnOk_action rfl
    | _ => exact noPosition_action
  | send len data => exact execSend_action len data s
  | receive cap timeout => exact execReceive_action cap timeout s

/-- If a step of an instruction answers a next state, it is one action. -/
theorem action_of_exec {i : Instr} {s t : State} (h : exec i s = .next t) : Action i s t := by
  obtain ⟨u, hu, ha⟩ := exec_action i s
  rw [hu] at h
  cases h
  exact ha

end Sys2Proof.Machine
end

