-- ==== Sys2Proof/Laws/Step.lean ====
section
/-! SUPPORT. What one step of the machine can do, said once: the inversion law of step. -/

namespace Sys2Proof.Machine

open Sys2Proof

/-- What a step does to state s once the host's own act is accounted for (s is the state after it). -/
inductive Stepped (s t : State) : Prop where
  /-- Idle with no request: nothing happens. -/
  | waits (hp : s.phase = .idle) (h : t = s)
  /-- A well-formed request is accepted (R22). -/
  | accepts (r : Request) (i : Instr) (hp : s.phase = .idle) (hd : decodeRequest r = .ok i) (hw : i.wf s.par = true)
      (h : t = (s.record (.request r)).goto i .entry)
  /-- An unassigned operation code is accepted, to be answered (R92). -/
  | illegal (r : Request) (opc : Byte) (hp : s.phase = .idle) (hd : decodeRequest r = .error (.unassignedOpcode opc))
      (h : t = { s.record (.request r) with phase := .illegal opc })
  /-- A refusal is recorded (R229). -/
  | refuses (r : Refusal) (h : t = { s with refusalMark := s.refusalMark.or (some r) })
  /-- The answer to an unassigned operation code (R92). -/
  | rejects (opc : Byte) (hp : s.phase = .illegal opc) (h : t = s.deliver { result := .invalidArgument })
  /-- One step of the instruction in progress. -/
  | runs (i : Instr) (l : Label) (hp : s.phase = .busy i l) (he : exec i s = .next t)

theorem blockStep_cases {s t : State} (h : blockStep s = .next t) : Stepped s t := by
  unfold blockStep at h
  split at h
  case h_1 hp => cases h; exact .waits hp rfl
  case h_2 opc hp => cases h; exact .rejects opc hp rfl
  case h_3 i l hp => exact .runs i l hp h

theorem accept_cases {r : Request} {s t : State} (hp : s.phase = .idle) (h : accept r s = .next t) : Stepped s t := by
  unfold accept at h
  split at h
  case h_1 i hd =>
    split at h
    · rename_i hw; cases h; exact .accepts r i hp hd hw rfl
    · cases h; exact .refuses .malformedRequest rfl
  case h_2 opc hd => cases h; exact .illegal r opc hp hd rfl
  all_goals cases h; exact .refuses .malformedRequest rfl

/-- A step that answers a next state starts from an unmarked one, and after the host's act it is one of the cases
of Stepped. -/
theorem step_cases {s t : State} (h : step s = .next t) :
    s.unmarked ∧ ∃ s', (s' = s ∨ s' = s.popHost) ∧ Stepped s' t := by
  unfold step sequencerStep at h
  split at h
  · cases h
  case h_2 hf =>
    split at h
    · cases h
    case h_2 hr =>
      refine ⟨⟨hf, hr⟩, ?_⟩
      unfold hostStep at h
      split at h
      · exact ⟨s, .inl rfl, blockStep_cases h⟩
      · exact ⟨s.popHost, .inr rfl, blockStep_cases h⟩
      · unfold intrusion at h
        split at h
        case h_1 hp => exact ⟨s.popHost, .inr rfl, accept_cases hp h⟩
        all_goals cases h; exact ⟨s.popHost, .inr rfl, .refuses .reentrant rfl⟩
      · unfold pendingCall at h
        split at h
        case h_1 hp => exact ⟨s.popHost, .inr rfl, accept_cases hp h⟩
        all_goals exact ⟨s, .inl rfl, blockStep_cases h⟩

end Sys2Proof.Machine
end

