-- ==== Sys2Proof/Tests/Slice0.lean ====
section
/-! SUPPORT. Tests of the model: WellFormed's checks, every constructor decoded from a word written out from the
encoding tables, one or two steps per instruction with the answers of the vectors of 95_test_vectors.md, and for each
obligation with hypotheses a state that meets them. -/

namespace Sys2Proof.Tests

open Sys2Proof Sys2Proof.Machine

/-! ## States -/

/-- The block at a position of an instruction, on a script of device answers. -/
def standing (i : Instr) (l : Label) (w : Work) (bus : List BusAnswer) : State :=
  { State.init { busClient := 1, cePin := 2, irqPin := none } Params.default true
      { Env.fresh 0 with bus := bus, hook := [true], tickSteps := [7] } with
    phase := .busy i l, work := w }

/-- The block in Idle with the given acts of the host and device answers. -/
def waiting (host : List HostAct) (bus : List BusAnswer) : State :=
  State.init { busClient := 1, cePin := 2, irqPin := none } Params.default true
    { Env.fresh 0 with host := host, bus := bus }

/-- A view of the next state, if there is one. -/
def view {α : Type} (o : Out) (f : State → α) : Option α :=
  match o with
  | .next t => some (f t)
  | .fault _ => none
  | .refused _ => none

/-- What a step appended to an empty history, the chip-enable level and where the sequencer stands. -/
def trace (s : State) : List Event × Bool × Phase := (s.history, s.ce, s.phase)

/-- Bytes counting up from 0 (`d[i] = i` of P1). -/
def counting (n : Nat) : List Byte := (List.range n).map fun k => BitVec.ofNat 8 k

/-! ## WellFormed: each check refuses an ill-formed term (R9, R68, R90, R174 f) -/

theorem smoke_rRegister : (Instr.rRegister 0x07#5 2).wf Params.default = false := by decide
theorem smoke_wRegister : (Instr.wRegister 0x07#5 [1#8, 2#8, 3#8]).wf Params.default = false := by decide
theorem smoke_rRxPayload : (Instr.rRxPayload 33#8).wf Params.default = false := by decide
theorem smoke_wTxPayload : (Instr.wTxPayload (counting 33)).wf Params.default = false := by decide
theorem smoke_readAddrReg_length : (Instr.readAddrReg 0#8 (2 ^ 32)).wf Params.default = false := by decide
theorem smoke_writeAddrReg_data : (Instr.writeAddrReg 0#8 5 [1#8]).wf Params.default = false := by decide
theorem smoke_writeAddrReg_length :
    (Instr.writeAddrReg 0#8 2 [1#8, 2#8]).wf { Params.default with lenBits := 1 } = false := by decide
theorem smoke_writeTxPayload_data : (Instr.writeTxPayload 0 [1#8]).wf Params.default = false := by decide
theorem smoke_writeTxPayload_length :
    (Instr.writeTxPayload 2 [1#8, 2#8]).wf { Params.default with lenBits := 1 } = false := by decide
theorem smoke_send_data : (Instr.send 2 [1#8]).wf Params.default = false := by decide
theorem smoke_send_length : (Instr.send 2 [1#8, 2#8]).wf { Params.default with lenBits := 1 } = false := by decide
theorem smoke_receive_capacity : (Instr.receive (2 ^ 32) 0).wf Params.default = false := by decide
theorem smoke_receive_timeout : (Instr.receive 32 (2 ^ 32)).wf Params.default = false := by decide
/-- A poll limit is at least 1 (R9). -/
theorem smoke_pollLimit : Params.wf { Params.default with txPollLimit := some 0 } = false := by decide

/-! ## Decoding: words written out from R81, R83, R85 and R89 -/

theorem test_decode_rRegister : decode (.frame [wr [0b00010111#8], rd 1]) = .ok (.rRegister 0b10111#5 1) := by decide
theorem test_decode_wRegister : decode (.frame [wr [0b00100111#8], wr [0x70#8]]) =
  .ok (.wRegister 0b00111#5 [0x70#8]) := by
  decide
theorem test_decode_rRxPlWid : decode (.frame [wr [0b01100000#8], rd 1]) = .ok .rRxPlWid := by decide
theorem test_decode_rRxPayload : decode (.frame [xch [0b01100001#8], rd 32]) = .ok (.rRxPayload 32#8) := by decide
theorem test_decode_rRxPayload_empty : decode (.frame [xch [0b01100001#8]]) = .ok (.rRxPayload 0#8) := by decide
theorem test_decode_wTxPayload :
    decode (.frame [wr [0b10100000#8], wr [0x11#8, 0x22#8]]) = .ok (.wTxPayload [0x11#8, 0x22#8]) := by decide
theorem test_decode_cmdFlushTx : decode (.frame [wr [0b11100001#8]]) = .ok .cmdFlushTx := by decide
theorem test_decode_cmdFlushRx : decode (.frame [wr [0b11100010#8]]) = .ok .cmdFlushRx := by decide
theorem test_decode_cmdNop : decode (.frame [wr [0b11111111#8]]) = .ok .cmdNop := by decide
theorem test_decode_readReg : decode (.request { opc := 0b00000001#8, addr := 0x27#8 }) = .ok (.readReg 0x27#8) := by
  decide
theorem test_decode_writeReg :
    decode (.request { opc := 0b00000010#8, addr := 0x87#8, value := 0x70#8 }) =
      .ok (.writeReg 0x87#8 0x70#8) := by decide
theorem test_decode_readAddrReg :
    decode (.request { opc := 0b00000011#8, addr := 0x0A#8, len := 4 }) = .ok (.readAddrReg 0x0A#8 4) := by decide
theorem test_decode_writeAddrReg :
    decode (.request { opc := 0b00000100#8, addr := 0x0A#8, len := 2, data := [1#8, 2#8] }) =
      .ok (.writeAddrReg 0x0A#8 2 [1#8, 2#8]) := by decide
theorem test_decode_writeTxPayload :
    decode (.request { opc := 0b00000101#8, len := 1, data := [0x11#8] }) = .ok (.writeTxPayload 1 [0x11#8]) :=
      by decide
theorem test_decode_flushTx : decode (.request { opc := 0b00000110#8 }) = .ok .flushTx := by decide
theorem test_decode_flushRx : decode (.request { opc := 0b00000111#8 }) = .ok .flushRx := by decide
theorem test_decode_getStatus : decode (.request { opc := 0b00001000#8 }) = .ok .getStatus := by decide
theorem test_decode_getFifoStatus : decode (.request { opc := 0b00001001#8 }) = .ok .getFifoStatus := by decide
theorem test_decode_powerUp : decode (.request { opc := 0b00010000#8 }) = .ok .powerUp := by decide
theorem test_decode_powerDown : decode (.request { opc := 0b00010001#8 }) = .ok .powerDown := by decide
theorem test_decode_enterReceive : decode (.request { opc := 0b00010010#8 }) = .ok .enterReceive := by decide
theorem test_decode_enterTransmit : decode (.request { opc := 0b00010011#8 }) = .ok .enterTransmit := by decide
theorem test_decode_enterStandby : decode (.request { opc := 0b00010100#8 }) = .ok .enterStandby := by decide
theorem test_decode_send : decode (.request { opc := 0b00100000#8, len := 1, data := [0x7E#8] }) =
  .ok (.send 1 [0x7E#8]) := by
  decide
theorem test_decode_receive : decode (.request { opc := 0b00100001#8, cap := 64, timeout := 5 }) =
  .ok (.receive 64 5) := by
  decide

/-- V-RA-31 and V-RA-32: unassigned operation codes. -/
theorem test_decode_unassigned :
    [0x00#8, 0x0A#8, 0x15#8, 0x22#8, 0xFF#8].map (fun o => decodeRequest { opc := o }) =
      [0x00#8, 0x0A#8, 0x15#8, 0x22#8, 0xFF#8].map (fun o => Except.error (Reject.unassignedOpcode o)) := by decide
/-- R87: the ends of the ranges of command bytes the block never emits. -/
theorem test_decode_notEmitted :
    [0x40#8, 0x5F#8, 0x62#8, 0x9F#8, 0xA1#8, 0xE0#8, 0xE3#8, 0xFE#8].map decodeCommand =
      List.replicate 8 none := by decide
/-- Frames outside R85: a toggle, a delay, 2 bytes of a register, 33 bytes of payload, an empty data segment. -/
theorem test_decode_badFrame :
    [[{ kind := .wr [0xE1#8], toggle := true }], [{ kind := .wr [0xE1#8], delay := 1 }], [wr [0x07#8], rd 2],
      [xch [0x61#8], rd 33], [xch [0x61#8], rd 0], [wr [0xA0#8], wr []]].map decodeFrame =
      List.replicate 6 (Except.error Reject.badFrame) := by decide
/-- Words of the opcode table: a host operation, a command byte, the clash of 0x20 and an unassigned byte
(log entry 12). -/
theorem test_decodeTableWord :
    decodeTableWord 8 0x14 = some .enterStandby ∧ decodeTableWord 8 0x27 = some (.wRegister 0x07#5 [0#8]) ∧
    decodeTableWord 8 0x20 = some (.send 0 []) ∧ decodeTableWord 8 0xE3 = none := by decide

/-- V-L1-10: command bytes. -/
theorem test_commandBytes :
    [0x00#8, 0x07#8, 0x17#8, 0x1D#8].map (fun a => (regCommand 0x00#8 (regField a), regCommand 0x20#8 (regField a))) =
      [(0x00#8, 0x20#8), (0x07#8, 0x27#8), (0x17#8, 0x37#8), (0x1D#8, 0x3D#8)] := by decide
/-- The pipe table of 2.1. -/
theorem test_pipes :
    [0x00#8, 0x02#8, 0x44#8, 0x46#8, 0x48#8, 0x4A#8, 0x0C#8, 0x0E#8, 0xFF#8, 0xF1#8].map rxPipeNo =
      [0#3, 1#3, 2#3, 3#3, 4#3, 5#3, 6#3, 7#3, 7#3, 0#3] := by decide
/-- V-L1-11 and V-MS-1 to V-MS-14: CONFIG bytes. -/
theorem test_configBytes :
    [0x58#8, 0x7C#8, 0xFD#8].map setPwrUp = [0x5A#8, 0x7E#8, 0xFF#8] ∧
    [0x0B#8, 0x7C#8, 0xFF#8].map clearPwrUp = [0x09#8, 0x7C#8, 0xFD#8] ∧
    [0x0A#8, 0x7C#8, 0xFE#8].map setPrimRx = [0x0B#8, 0x7D#8, 0xFF#8] ∧
    [0x0B#8, 0x7C#8, 0xFF#8].map clearPrimRx = [0x0A#8, 0x7C#8, 0xFE#8] := by decide
/-- V-RX-5 to V-RX-8: elapsed ticks, across a wrap and with 16 bits. -/
theorem test_elapsed :
    elapsed 32 0 1 = 1 ∧ elapsed 32 5 5 = 0 ∧ elapsed 32 0xFFFFFFF0 0x00000010 = 0x20 ∧
      elapsed 16 0xFF80 0x0070 = 0xF0 := by
  decide

/-! ## One step of each instruction -/

/-- R81, 42_transmit.md's STATUS frame. -/
theorem test_rRegister :
    view (step (standing (.rRegister 0x07#5 1) .entry {} [.ok [0x0E#8]])) trace =
      some ([.bus [wr [0x07#8], rd 1] (.ok [0x0E#8])], true, .busy (.rRegister 0x07#5 1) .ret) := by decide
/-- R120: the clear of the interrupt flags. -/
theorem test_wRegister :
    view (step (standing (.wRegister 0x07#5 [0x70#8]) .entry {} [.ok []])) trace =
      some ([.bus [wr [0x27#8], wr [0x70#8]] (.ok [])], true, .busy (.wRegister 0x07#5 [0x70#8]) .ret) := by decide
/-- R122's example. -/
theorem test_rRxPlWid :
    view (step (standing .rRxPlWid .entry {} [.ok [0x08#8]])) (fun t => (t.history, t.work)) =
      some ([.bus [wr [0x60#8], rd 1] (.ok [0x08#8])], { w := some 8#8 }) := by decide
/-- R123's example. -/
theorem test_rRxPayload :
    view (step (standing (.rRxPayload 2#8) .entry {} [.ok [0x42#8, 0xAB#8, 0xCD#8]])) (fun t => (t.history, t.work)) =
      some ([.bus [xch [0x61#8], rd 2] (.ok [0x42#8, 0xAB#8, 0xCD#8])],
        { rd := some [0x42#8, 0xAB#8, 0xCD#8], s := some 0x42#8, pipe := some 1#3 }) := by decide
/-- R85: the empty payload is the command byte alone. -/
theorem test_wTxPayload :
    view (step (standing (.wTxPayload []) .entry {} [.ok []])) trace =
      some ([.bus [wr [0xA0#8]] (.ok [])], true, .busy (.wTxPayload []) .ret) := by decide
theorem test_cmdFlushTx :
    view (step (standing .cmdFlushTx .entry {} [.ok []])) trace =
      some ([.bus [wr [0xE1#8]] (.ok [])], true, .busy .cmdFlushTx .ret) := by decide
theorem test_cmdFlushRx :
    view (step (standing .cmdFlushRx .entry {} [.err])) trace =
      some ([.bus [wr [0xE2#8]] .err], true, .busy .cmdFlushRx .fail) := by decide
/-- R119: no transaction. -/
theorem test_cmdNop : view (step (standing .cmdNop .entry {} [])) trace = some ([], true, .busy .cmdNop .ret) :=
  by decide
/-- V-RA-6. -/
theorem test_readReg :
    view (step (standing (.readReg 0x27#8) .entry {} [.ok [0x0E#8]])) (fun t => t.history) =
      some [.bus [wr [0x07#8], rd 1] (.ok [0x0E#8])] := by decide
theorem test_readReg_end :
    view (step (standing (.readReg 0x27#8) .ret { rd := some [0x0E#8] } [])) trace =
      some ([.response { result := .ok, value := some 0x0E#8 }], true, .idle) := by decide
/-- V-RA-11. -/
theorem test_writeReg :
    view (step (standing (.writeReg 0x87#8 0x70#8) .entry {} [.ok []])) (fun t => t.history) =
      some [.bus [wr [0x27#8], wr [0x70#8]] (.ok [])] := by decide
/-- V-RA-13: the end after a bus error. -/
theorem test_writeReg_fail :
    view (step (standing (.writeReg 0x05#8 0x4C#8) .fail {} [])) trace =
      some ([.response { result := .busError }], true, .idle) := by decide
/-- V-RA-17. -/
theorem test_readAddrReg_length :
    view (step (standing (.readAddrReg 0x10#8 6) .entry {} [.ok []])) trace =
      some ([.response { result := .invalidArgument }], true, .idle) := by decide
/-- V-RA-18's end, with the output buffer. -/
theorem test_readAddrReg_end :
    view (step (standing (.readAddrReg 0x05#8 5) .ret { rd := some [1#8, 2#8, 3#8, 4#8, 5#8] } [])) (fun t => t.out) =
      some [(0, 1#8), (1, 2#8), (2, 3#8), (3, 4#8), (4, 5#8)] := by decide
/-- V-RA-19. -/
theorem test_writeAddrReg :
    view (step (standing (.writeAddrReg 0x0A#8 5 [1#8, 2#8, 3#8, 4#8,
      5#8]) .entry {} [.ok []])) (fun t => t.history) =
      some [.bus [wr [0x2A#8], wr [1#8, 2#8, 3#8, 4#8, 5#8]] (.ok [])] := by decide
/-- V-RA-20. -/
theorem test_writeAddrReg_length :
    view (step (standing (.writeAddrReg 0x0A#8 6 (counting 6)) .entry {} [])) trace =
      some ([.response { result := .invalidArgument }], true, .idle) := by decide
/-- V-RA-22. -/
theorem test_writeTxPayload_empty :
    view (step (standing (.writeTxPayload 0 []) .entry {} [.ok []])) (fun t => t.history) =
      some [.bus [wr [0xA0#8]] (.ok [])] := by decide
/-- V-RA-25. -/
theorem test_writeTxPayload_length :
    view (step (standing (.writeTxPayload 33 (counting 33)) .entry {} [])) trace =
      some ([.response { result := .invalidArgument }], true, .idle) := by decide
/-- V-RA-26. -/
theorem test_flushTx :
    view (step (standing .flushTx .entry {} [.ok []])) (fun t => t.history) =
      some [.bus [wr [0xE1#8]] (.ok [])] := by decide
/-- V-RA-28. -/
theorem test_flushRx :
    view (step (standing .flushRx .entry {} [.err])) trace =
      some ([.bus [wr [0xE2#8]] .err], true, .busy .flushRx .fail) := by decide
/-- V-RA-29. -/
theorem test_getStatus :
    view (step (standing .getStatus .ret { st := some 0x2E#8 } [])) trace =
      some ([.response { result := .ok, value := some 0x2E#8 }], true, .idle) := by decide
/-- V-RA-30. -/
theorem test_getFifoStatus :
    view (step (standing .getFifoStatus .entry {} [.ok [0x11#8]])) (fun t => t.history) =
      some [.bus [wr [0x17#8], rd 1] (.ok [0x11#8])] := by decide
/-- V-L1-5. -/
theorem test_powerUp :
    view (step (standing .powerUp .w { cfg := some 0x58#8 } [.ok []])) (fun t => t.history) =
      some [.bus [wr [0x20#8], wr [0x5A#8]] (.ok [])] := by decide
/-- V-MS-18: chip-enable stays high. -/
theorem test_powerDown :
    view (step (standing .powerDown .w { cfg := some 0x0B#8 } [.ok []])) trace =
      some ([.bus [wr [0x20#8], wr [0x09#8]] (.ok [])], true, .busy .powerDown .ret) := by decide
/-- V-MS-11. -/
theorem test_enterReceive :
    view (step (standing .enterReceive .w { cfg := some 0x08#8 } [.ok []])) trace =
      some ([.bus [wr [0x20#8], wr [0x09#8]] (.ok [])], true, .busy .enterReceive .p) := by decide
/-- V-MS-16. -/
theorem test_enterReceive_fail :
    view (step (standing .enterReceive .entry {} [.err])) trace =
      some ([.bus [wr [0x00#8], rd 1] .err], true, .busy .enterReceive .fail) := by decide
/-- V-MS-12. -/
theorem test_enterTransmit :
    view (step (standing .enterTransmit .w { cfg := some 0x0B#8 } [.ok []])) (fun t => t.history) =
      some [.bus [wr [0x20#8], wr [0x0A#8]] (.ok [])] := by decide
theorem test_enterTransmit_pin :
    view (step (standing .enterTransmit .p {} [])) trace = some ([.pin true], true,
      .busy .enterTransmit .ret) := by decide
/-- V-MS-15. -/
theorem test_enterStandby :
    view (step (standing .enterStandby .entry {} [])) trace = some ([.pin false], false,
      .busy .enterStandby .ret) := by
  decide
/-- V-TX-6: the second chunk of 33 bytes. -/
theorem test_send_secondChunk :
    view (step (standing (.send 33 (counting 33)) .ack { off := some 0, n := some 32#6 } [.ok []]))
      (fun t => t.history) =
      some [.bus [wr [0xA0#8], wr [0x20#8]] (.ok [])] := by decide
/-- V-TX-11: MAX_RT wins over TX_DS. -/
theorem test_send_bothFlags :
    view (step (standing (.send 1 [0x55#8]) .test { st := some 0x3E#8, polls := some 0, off := some 0, n := some 1#6 }
      [.ok []])) trace =
      some ([.bus [wr [0x27#8], wr [0x70#8]] (.ok [])], true, .busy (.send 1 [0x55#8]) .flush) := by decide
/-- V-RX-12: a width of 33 records the model fault and issues nothing. -/
theorem test_receive_width :
    view (step (standing (.receive 32 0) .pay { t0 := some 0, w := some 0x21#8 } [.ok []]))
      (fun t => (t.history, t.ce, t.faultMark)) = some ([], true, some .rxWidthInvalid) := by decide
/-- V-RX-7: the deadline across a wrap. -/
theorem test_receive_wrap :
    view (step (standing (.receive 32 0x20) .deadline { t0 := some 0xFFFFFFF0, now := some 0x10 } [])) trace =
      some ([.response { result := .timeout }], true, .idle) := by decide

/-! ## The sequencer -/

/-- P3, request 2: the answer to an unassigned operation code. -/
theorem test_unassigned_answer :
    view (step { waiting [] [] with phase := .illegal 0x0A#8 }) trace =
      some ([.response { result := .invalidArgument }], true, .idle) := by decide
/-- R90: a request with fewer bytes than it says. -/
theorem test_malformed :
    view (step (waiting [.call { opc := 0x20#8, len := 2, data := [1#8] }] [])) (fun t => (t.history,
      t.refusalMark)) =
      some ([], some .malformedRequest) := by decide

/-! ## Witnesses: for each obligation with hypotheses, states and operands that meet them, clause by clause -/

/-- A protocol-keeping host's next call. -/
theorem ready_waiting {r : Request} {bus : List BusAnswer} : (waiting [.call r] bus).ready r [] :=
  ⟨⟨rfl, rfl⟩, rfl, rfl, rfl⟩

theorem witness_FrameShapes : ([0#8] : List Byte) ≠ [] ∧ (1#8 : Byte) ≠ 0#8 := by decide

theorem witness_DecodeInvertsEncode :
    (Instr.rRegister 0x1F#5 5).wf Params.default = true ∧
      (Instr.wRegister 0x1F#5 (counting 5)).wf Params.default = true ∧
    (Instr.rRxPayload 32#8).wf Params.default = true ∧ (Instr.wTxPayload (counting 32)).wf Params.default = true ∧
    (Instr.readAddrReg 0xFF#8 (2 ^ 32 - 1)).wf Params.default = true ∧
    (Instr.writeTxPayload 33 (counting 33)).wf Params.default = true ∧ (Instr.send 0 []).wf Params.default = true ∧
    (Instr.receive (2 ^ 32 - 1) (2 ^ 32 - 1)).wf Params.default = true := by decide

theorem witness_FrameHasOneMeaning :
    decodeFrame [xch [0x61#8], rd 32] = .ok (.rRxPayload 32#8) ∧ decodeFrame [wr [0xFF#8]] = .ok .cmdNop := by decide

/-- The clause of an assigned code without data is met by the request of that code alone. -/
theorem witness_RequestsDecodeByOpcode :
    (({ opc := 0x04#8, len := 5, data := counting 5 } : Request).data.length = 5) ∧
    (({ opc := 0x20#8 } : Request).data.length = ({ opc := 0x20#8 } : Request).len) ∧
    (({ opc := 0x05#8, len := 1 } : Request).opc ∈ [0x04#8, 0x05#8, 0x20#8] ∧
      ({ opc := 0x05#8, len := 1 } : Request).data.length ≠ ({ opc := 0x05#8, len := 1 } : Request).len) ∧
    ([0x00#8, 0x0A#8, 0x0F#8, 0x15#8, 0x1F#8, 0x22#8, 0xFF#8].all fun o =>
      decide (o ∉ [0x01#8, 0x02#8, 0x03#8, 0x04#8, 0x05#8, 0x06#8, 0x07#8, 0x08#8, 0x09#8, 0x10#8, 0x11#8, 0x12#8,
        0x13#8, 0x14#8, 0x20#8, 0x21#8])) = true := by decide

theorem witness_InitStateWaitsInIdle : (Env.fresh 0).host = [] := rfl

theorem witness_StepRunsDecodedInstruction :
    (∃ (s : State) (r : Request) (rest : List HostAct) (i : Instr), s.unmarked ∧ s.phase = .idle ∧
      s.env.host = .call r :: rest ∧ decode (.request r) = .ok i ∧ i.wf s.par = true) ∧
    (∃ (s : State) (i : Instr) (l : Label), s.unmarked ∧ s.phase = .busy i l ∧ keepsProtocol s.env.host = true) ∧
    (∃ (s : State) (i : Instr) (l : Label) (rest : List HostAct), s.unmarked ∧ s.phase = .busy i l ∧
      s.env.host = .pass :: rest) :=
  ⟨⟨waiting [.call { opc := 0x21#8, cap := 32 }] [], _, _, _, ⟨rfl, rfl⟩, rfl, rfl, rfl, by decide⟩,
    ⟨standing .powerUp .entry {} [], _, _, ⟨rfl, rfl⟩, rfl, rfl⟩,
    ⟨{ waiting [.pass] [] with phase := .busy .powerUp .entry }, _, _, _, ⟨rfl, rfl⟩, rfl, rfl⟩⟩

theorem witness_UnassignedOpcodeIsInvalidArgument :
    (waiting [.call { opc := 0x15#8 }] []).ready { opc := 0x15#8 } [] ∧
    (0x15#8 : Byte) ∉ [0x01#8, 0x02#8, 0x03#8, 0x04#8, 0x05#8, 0x06#8, 0x07#8, 0x08#8, 0x09#8, 0x10#8, 0x11#8, 0x12#8,
      0x13#8, 0x14#8, 0x20#8, 0x21#8] :=
  ⟨ready_waiting, by decide⟩

theorem witness_RefusedRequests :
    (∃ (s : State) (r : Request) (rest : List HostAct), s.unmarked ∧ s.phase ≠ .idle ∧ s.env.host =
      .intrude r :: rest) ∧
    (∃ (s : State) (r : Request) (rest : List HostAct), s.unmarked ∧ s.phase = .idle ∧
      s.env.host = .intrude r :: rest ∧ r.opc ∈ [0x04#8, 0x05#8, 0x20#8] ∧ r.data.length ≠ r.len) ∧
    (∃ (s : State) (r : Request) (rest : List HostAct), s.unmarked ∧ s.phase = .idle ∧
      s.env.host = .call r :: rest ∧ r.opc ∈ [0x04#8, 0x05#8, 0x20#8] ∧ r.data.length ≠ r.len) :=
  ⟨⟨{ waiting [.intrude { opc := 0x08#8 }] [] with phase := .busy .flushTx .ret }, _, _, ⟨rfl, rfl⟩, by decide, rfl⟩,
    ⟨waiting [.intrude { opc := 0x04#8, len := 5 }] [], _, _, ⟨rfl, rfl⟩, rfl, rfl, by decide, by decide⟩,
    ⟨waiting [.call { opc := 0x20#8, data := [1#8] }] [], _, _, ⟨rfl, rfl⟩, rfl, rfl, by decide, by decide⟩⟩

theorem witness_MarkedMachineStopsForGood :
    (∃ s : State, s.faultMark = some .rxWidthInvalid) ∧
    (∃ s : State, s.faultMark = none ∧ s.refusalMark = some .reentrant) :=
  ⟨⟨{ waiting [] [] with faultMark := some .rxWidthInvalid }, rfl⟩,
    ⟨{ waiting [] [] with refusalMark := some .reentrant }, rfl, rfl⟩⟩

theorem witness_BusAnswersHaveTheirShape :
    (∃ (e : Env) (f : Frame) (b : List Byte), e.bus = [.ok b] ∧ b.length = rxCount f ∧ e.busAnswer f = .ok b) ∧
    (∃ e : Env, e.bus = [.err]) :=
  ⟨⟨{ Env.fresh 0 with bus := [.ok [0x0E#8]] }, [wr [0x07#8], rd 1], [0x0E#8], rfl, rfl, by decide⟩,
    ⟨{ Env.fresh 0 with bus := [.err] }, rfl⟩⟩

theorem witness_BusErrorEndsTheOperation :
    ∃ (s : State) (i : Instr), i.isHostOp = true ∧ i ≠ .enterStandby ∧ s.phase = .busy i .fail :=
  ⟨standing (.send 0 []) .fail {} [], _, rfl, by decide, rfl⟩

theorem witness_RegisterCommandsIssueTheirFrame :
    (∃ s : State, s.phase = .busy (.rRegister 0x1F#5 5) .entry) ∧
    (∃ s : State, s.phase = .busy (.wRegister 0x00#5 [0xFF#8]) .entry) ∧
    (∃ s : State, s.phase = .busy (.rRegister 0x1F#5 5) .ret) ∧
    (∃ s : State, s.phase = .busy (.wRegister 0x00#5 [0xFF#8]) .fail) :=
  ⟨⟨standing (.rRegister 0x1F#5 5) .entry {} [], rfl⟩, ⟨standing (.wRegister 0x00#5 [0xFF#8]) .entry {} [], rfl⟩,
    ⟨standing (.rRegister 0x1F#5 5) .ret {} [], rfl⟩, ⟨standing (.wRegister 0x00#5 [0xFF#8]) .fail {} [], rfl⟩⟩

theorem witness_PayloadCommandsIssueTheirFrame :
    (∃ s : State, s.phase = .busy .rRxPlWid .entry) ∧ (∃ s : State, s.phase = .busy (.rRxPayload 0#8) .entry) ∧
    (∃ s : State, s.phase = .busy (.rRxPayload 32#8) .entry) ∧ (∃ s : State, s.phase =
      .busy (.wTxPayload []) .entry) ∧
    (∃ s : State, s.phase = .busy (.rRxPayload 32#8) .ret) ∧ (∃ s : State, s.phase = .busy .rRxPlWid .fail) :=
  ⟨⟨standing .rRxPlWid .entry {} [], rfl⟩, ⟨standing (.rRxPayload 0#8) .entry {} [], rfl⟩,
    ⟨standing (.rRxPayload 32#8) .entry {} [], rfl⟩, ⟨standing (.wTxPayload []) .entry {} [], rfl⟩,
    ⟨standing (.rRxPayload 32#8) .ret {} [], rfl⟩, ⟨standing .rRxPlWid .fail {} [], rfl⟩⟩

theorem witness_BareCommandsAndNop :
    (∃ s : State, s.phase = .busy .cmdFlushTx .entry) ∧ (∃ s : State, s.phase = .busy .cmdFlushRx .entry) ∧
    (∃ s : State, s.phase = .busy .cmdNop .entry) ∧ (∃ s : State, s.phase = .busy .cmdNop .ret) ∧
    (∃ s : State, s.phase = .busy .cmdFlushRx .fail) :=
  ⟨⟨standing .cmdFlushTx .entry {} [], rfl⟩, ⟨standing .cmdFlushRx .entry {} [], rfl⟩,
    ⟨standing .cmdNop .entry {} [], rfl⟩, ⟨standing .cmdNop .ret {} [], rfl⟩, ⟨standing .cmdFlushRx .fail {} [], rfl⟩⟩

theorem witness_ReadRegPseudocode :
    (∃ s : State, s.phase = .busy (.readReg 0xFF#8) .entry) ∧
    (∃ s : State, s.phase = .busy (.readReg 0xFF#8) .ret ∧ s.work.rd = some [0xFF#8]) ∧
    (∃ s : State, s.phase = .busy (.readReg 0xFF#8) .fail) :=
  ⟨⟨standing (.readReg 0xFF#8) .entry {} [], rfl⟩, ⟨standing (.readReg 0xFF#8) .ret { rd := some [0xFF#8] } [],
    rfl, rfl⟩,
    ⟨standing (.readReg 0xFF#8) .fail {} [], rfl⟩⟩

theorem witness_WriteRegPseudocode :
    (∃ s : State, s.phase = .busy (.writeReg 0xFF#8 0x00#8) .entry) ∧
    (∃ s : State, s.phase = .busy (.writeReg 0xFF#8 0x00#8) .ret) ∧
    (∃ s : State, s.phase = .busy (.writeReg 0xFF#8 0x00#8) .fail) :=
  ⟨⟨standing (.writeReg 0xFF#8 0x00#8) .entry {} [], rfl⟩, ⟨standing (.writeReg 0xFF#8 0x00#8) .ret {} [], rfl⟩,
    ⟨standing (.writeReg 0xFF#8 0x00#8) .fail {} [], rfl⟩⟩

theorem witness_ReadAddrRegPseudocode :
    (∃ s : State, s.phase = .busy (.readAddrReg 0xFF#8 6) .entry ∧ (6 : Nat) ≠ 5) ∧
    (∃ s : State, s.phase = .busy (.readAddrReg 0xFF#8 5) .entry) ∧
    (∃ s : State, s.phase = .busy (.readAddrReg 0xFF#8 5) .ret ∧ s.work.rd = some (counting 5) ∧
      (counting 5).length = 5) ∧
    (∃ s : State, s.phase = .busy (.readAddrReg 0xFF#8 5) .fail) :=
  ⟨⟨standing (.readAddrReg 0xFF#8 6) .entry {} [], rfl, by decide⟩,
    ⟨standing (.readAddrReg 0xFF#8 5) .entry {} [], rfl⟩,
    ⟨standing (.readAddrReg 0xFF#8 5) .ret { rd := some (counting 5) } [], rfl, rfl, rfl⟩,
    ⟨standing (.readAddrReg 0xFF#8 5) .fail {} [], rfl⟩⟩

theorem witness_WriteAddrRegPseudocode :
    (∃ s : State, s.phase = .busy (.writeAddrReg 0xFF#8 4 (counting 4)) .entry ∧ (4 : Nat) ≠ 5) ∧
    (∃ s : State, s.phase = .busy (.writeAddrReg 0xFF#8 5 (counting 5)) .entry ∧ (counting 5).length = 5) ∧
    (∃ s : State, s.phase = .busy (.writeAddrReg 0xFF#8 5 (counting 5)) .ret) ∧
    (∃ s : State, s.phase = .busy (.writeAddrReg 0xFF#8 5 (counting 5)) .fail) :=
  ⟨⟨standing (.writeAddrReg 0xFF#8 4 (counting 4)) .entry {} [], rfl, by decide⟩,
    ⟨standing (.writeAddrReg 0xFF#8 5 (counting 5)) .entry {} [], rfl, rfl⟩,
    ⟨standing (.writeAddrReg 0xFF#8 5 (counting 5)) .ret {} [], rfl⟩,
    ⟨standing (.writeAddrReg 0xFF#8 5 (counting 5)) .fail {} [], rfl⟩⟩

theorem witness_WriteTxPayloadPseudocode :
    (∃ s : State, s.phase = .busy (.writeTxPayload 33 (counting 33)) .entry ∧ 32 < 33) ∧
    (∃ s : State, s.phase = .busy (.writeTxPayload 32 (counting 32)) .entry ∧ (counting 32).length = 32) ∧
    (∃ s : State, s.phase = .busy (.writeTxPayload 1 (counting 1)) .entry ∧ (counting 1).length = 1) ∧
    (∃ s : State, s.phase = .busy (.writeTxPayload 0 []) .entry) ∧
    (∃ s : State, s.phase = .busy (.writeTxPayload 0 []) .ret) ∧
    (∃ s : State, s.phase = .busy (.writeTxPayload 0 []) .fail) :=
  ⟨⟨standing (.writeTxPayload 33 (counting 33)) .entry {} [], rfl, by decide⟩,
    ⟨standing (.writeTxPayload 32 (counting 32)) .entry {} [], rfl, rfl⟩,
    ⟨standing (.writeTxPayload 1 (counting 1)) .entry {} [], rfl, rfl⟩,
    ⟨standing (.writeTxPayload 0 []) .entry {} [], rfl⟩, ⟨standing (.writeTxPayload 0 []) .ret {} [], rfl⟩,
    ⟨standing (.writeTxPayload 0 []) .fail {} [], rfl⟩⟩

theorem witness_FlushPseudocode :
    (∃ s : State, s.phase = .busy .flushTx .entry) ∧ (∃ s : State, s.phase = .busy .flushRx .entry) ∧
    (∃ s : State, s.phase = .busy .flushRx .ret) ∧ (∃ s : State, s.phase = .busy .flushTx .fail) :=
  ⟨⟨standing .flushTx .entry {} [], rfl⟩, ⟨standing .flushRx .entry {} [], rfl⟩, ⟨standing .flushRx .ret {} [], rfl⟩,
    ⟨standing .flushTx .fail {} [], rfl⟩⟩

theorem witness_StatusReadPseudocode :
    (∃ s : State, s.phase = .busy .getStatus .entry) ∧
    (∃ s : State, s.phase = .busy .getStatus .ret ∧ s.work.st = some 0xFF#8) ∧
    (∃ s : State, s.phase = .busy .getStatus .fail) ∧ (∃ s : State, s.phase = .busy .getFifoStatus .entry) ∧
    (∃ s : State, s.phase = .busy .getFifoStatus .ret ∧ s.work.fs = some 0x00#8) ∧
    (∃ s : State, s.phase = .busy .getFifoStatus .fail) :=
  ⟨⟨standing .getStatus .entry {} [], rfl⟩, ⟨standing .getStatus .ret { st := some 0xFF#8 } [], rfl, rfl⟩,
    ⟨standing .getStatus .fail {} [], rfl⟩, ⟨standing .getFifoStatus .entry {} [], rfl⟩,
    ⟨standing .getFifoStatus .ret { fs := some 0x00#8 } [], rfl, rfl⟩, ⟨standing .getFifoStatus .fail {} [], rfl⟩⟩

theorem witness_PowerPseudocode :
    (∃ s : State, s.phase = .busy .powerUp .entry) ∧ (∃ s : State, s.phase = .busy .powerDown .ret) ∧
    (∃ s : State, s.phase = .busy .powerUp .fail) ∧
    (∃ s : State, s.phase = .busy .powerUp .w ∧ s.work.cfg = some 0xFF#8) ∧
    (∃ s : State, s.phase = .busy .powerDown .w ∧ s.work.cfg = some 0x00#8) :=
  ⟨⟨standing .powerUp .entry {} [], rfl⟩, ⟨standing .powerDown .ret {} [], rfl⟩, ⟨standing .powerUp .fail {} [], rfl⟩,
    ⟨standing .powerUp .w { cfg := some 0xFF#8 } [], rfl, rfl⟩,
    ⟨standing .powerDown .w { cfg := some 0x00#8 } [], rfl, rfl⟩⟩

theorem witness_ActivityPseudocode :
    (∃ s : State, s.phase = .busy .enterReceive .entry) ∧ (∃ s : State, s.phase = .busy .enterTransmit .p) ∧
    (∃ s : State, s.phase = .busy .enterReceive .ret) ∧ (∃ s : State, s.phase = .busy .enterTransmit .fail) ∧
    (∃ s : State, s.phase = .busy .enterReceive .w ∧ s.work.cfg = some 0x01#8) ∧
    (∃ s : State, s.phase = .busy .enterTransmit .w ∧ s.work.cfg = some 0x00#8) :=
  ⟨⟨standing .enterReceive .entry {} [], rfl⟩, ⟨standing .enterTransmit .p {} [], rfl⟩,
    ⟨standing .enterReceive .ret {} [], rfl⟩, ⟨standing .enterTransmit .fail {} [], rfl⟩,
    ⟨standing .enterReceive .w { cfg := some 0x01#8 } [], rfl, rfl⟩,
    ⟨standing .enterTransmit .w { cfg := some 0x00#8 } [], rfl, rfl⟩⟩

theorem witness_StandbyPseudocode :
    (∃ s : State, s.phase = .busy .enterStandby .entry) ∧ (∃ s : State, s.phase = .busy .enterStandby .ret) :=
  ⟨⟨standing .enterStandby .entry {} [], rfl⟩, ⟨standing .enterStandby .ret {} [], rfl⟩⟩

theorem witness_ModeTransitionTable : (7 < 8 ∧ 7 ≠ 1) ∧ (1 < 8 ∧ 1 ≠ 0) := by decide

theorem witness_SendBusyCheckAndEnterTransmit :
    (∃ s : State, s.phase = .busy (.send 1 [0x55#8]) .entry) ∧
    (∃ s : State, s.phase = .busy (.send 1 [0x55#8]) .etx ∧ s.work.st = some 0x0F#8 ∧ (0x0F#8).getLsbD 0 = true) ∧
    (∃ s : State, s.phase = .busy (.send 1 [0x55#8]) .etx ∧ s.work.st = some 0x0E#8 ∧ (0x0E#8).getLsbD 0 = false) ∧
    (∃ s : State, s.phase = .busy (.send 1 [0x55#8]) .etw ∧ s.work.cfg = some 0x0B#8) ∧
    (∃ s : State, s.phase = .busy (.send 1 [0x55#8]) .etp) :=
  ⟨⟨standing (.send 1 [0x55#8]) .entry {} [], rfl⟩,
    ⟨standing (.send 1 [0x55#8]) .etx { st := some 0x0F#8 } [], rfl, rfl, by decide⟩,
    ⟨standing (.send 1 [0x55#8]) .etx { st := some 0x0E#8 } [], rfl, rfl, by decide⟩,
    ⟨standing (.send 1 [0x55#8]) .etw { cfg := some 0x0B#8 } [], rfl, rfl⟩,
    ⟨standing (.send 1 [0x55#8]) .etp {} [], rfl⟩⟩

/-- The three ways to the loop head; at each, the last byte of 33 (offset 32) and the end (offset 33), or an empty
buffer. -/
theorem witness_SendWritesTheNextChunk :
    (counting 33).length = 33 ∧ (32 < 33 ∧ 33 ≤ 33 ∧ 0 < 33 ∧ 0 ≤ 0) ∧
    (∃ s : State, s.phase = .busy (.send 0 []) .chunk) ∧ (∃ s : State, s.phase =
      .busy (.send 33 (counting 33)) .chunk) ∧
    (∃ s : State, s.phase = .busy (.send 33 (counting 33)) .ack ∧ s.work.off = some 0 ∧ s.work.n = some 32#6 ∧
      32 = 0 + (32#6).toNat) ∧
    (∃ s : State, s.phase = .busy (.send 33 (counting 33)) .ack ∧ s.work.off = some 32 ∧ s.work.n = some 1#6 ∧
      33 = 32 + (1#6).toNat) ∧
    (∃ s : State, s.phase = .busy (.send 33 (counting 33)) .test ∧ s.par.clearTxDs = false ∧ s.work.off = some 0 ∧
      s.work.n = some 32#6 ∧ s.work.st = some 0x2E#8 ∧ s.work.polls = some 0 ∧ (0x2E#8).getLsbD 4 = false ∧
      (0x2E#8).getLsbD 5 = true) :=
  ⟨rfl, by decide, ⟨standing (.send 0 []) .chunk {} [], rfl⟩, ⟨standing (.send 33 (counting 33)) .chunk {} [], rfl⟩,
    ⟨standing (.send 33 (counting 33)) .ack { off := some 0, n := some 32#6 } [], rfl, rfl, rfl, by decide⟩,
    ⟨standing (.send 33 (counting 33)) .ack { off := some 32, n := some 1#6 } [], rfl, rfl, rfl, by decide⟩,
    ⟨{ standing (.send 33 (counting 33)) .test
          { off := some 0, n := some 32#6, st := some 0x2E#8, polls := some 0 } [] with
        par := { Params.default with clearTxDs := false } },
      rfl, rfl, rfl, rfl, rfl, rfl, by decide, by decide⟩⟩

theorem witness_SendPollTests :
    (∃ s : State, s.phase = .busy (.send 1 [0x55#8]) .poll) ∧
    (∃ s : State, s.phase = .busy (.send 1 [0x55#8]) .test ∧ s.work.st = some 0x3E#8 ∧ s.work.polls = some 0 ∧
      (0x3E#8).getLsbD 4 = true) ∧
    (∃ s : State, s.phase = .busy (.send 1 [0x55#8]) .test ∧ s.work.st = some 0x2E#8 ∧ s.work.polls = some 0 ∧
      (0x2E#8).getLsbD 4 = false ∧ (0x2E#8).getLsbD 5 = true ∧ s.par.clearTxDs = true) ∧
    (∃ s : State, s.phase = .busy (.send 1 [0x55#8]) .test ∧ s.work.st = some 0x0E#8 ∧ s.work.polls = some 1 ∧
      (0x0E#8).getLsbD 4 = false ∧ (0x0E#8).getLsbD 5 = false ∧ s.par.txPollLimit = some 2 ∧ 2 ≤ 1 + 1) ∧
    (∃ s : State, s.phase = .busy (.send 1 [0x55#8]) .test ∧ s.work.st = some 0x0E#8 ∧ s.work.polls = some 0 ∧
      (0x0E#8).getLsbD 4 = false ∧ (0x0E#8).getLsbD 5 = false ∧ ∀ l, s.par.txPollLimit = some l → 0 + 1 < l) ∧
    (∃ s : State, s.phase = .busy (.send 1 [0x55#8]) .yld ∧ s.env.hookReturned = true) :=
  ⟨⟨standing (.send 1 [0x55#8]) .poll {} [], rfl⟩,
    ⟨standing (.send 1 [0x55#8]) .test { st := some 0x3E#8, polls := some 0 } [], rfl, rfl, rfl, by decide⟩,
    ⟨standing (.send 1 [0x55#8]) .test { st := some 0x2E#8, polls := some 0 } [], rfl, rfl, rfl, by decide,
      by decide, rfl⟩,
    ⟨{ standing (.send 1 [0x55#8]) .test { st := some 0x0E#8, polls := some 1 } [] with
        par := { Params.default with txPollLimit := some 2 } }, rfl, rfl, rfl, by decide, by decide, rfl, by decide⟩,
    ⟨{ standing (.send 1 [0x55#8]) .test { st := some 0x0E#8, polls := some 0 } [] with
        par := { Params.default with txPollLimit := some 2 } },
      rfl, rfl, rfl, by decide, by decide, fun _ h => by cases h; decide⟩,
    ⟨standing (.send 1 [0x55#8]) .yld {} [], rfl, rfl⟩⟩

theorem witness_SendRecoveryAndEnd :
    (∃ s : State, s.phase = .busy (.send 0 []) .flush) ∧ (∃ s : State, s.phase = .busy (.send 0 []) .standby) ∧
    (∃ s : State, s.phase = .busy (.send 0 []) .timeout) ∧ (∃ s : State, s.phase = .busy (.send 0 []) .ret) ∧
    (∃ s : State, s.phase = .busy (.send 0 []) .fail) :=
  ⟨⟨standing (.send 0 []) .flush {} [], rfl⟩, ⟨standing (.send 0 []) .standby {} [], rfl⟩,
    ⟨standing (.send 0 []) .timeout {} [], rfl⟩, ⟨standing (.send 0 []) .ret {} [], rfl⟩,
    ⟨standing (.send 0 []) .fail {} [], rfl⟩⟩

theorem witness_ReceiveCapacityAndStartTick :
    (∃ s : State, s.phase = .busy (.receive 31 0) .entry ∧ 31 < 32) ∧
    (∃ s : State, s.phase = .busy (.receive 32 0) .entry ∧ 32 ≤ 32) :=
  ⟨⟨standing (.receive 31 0) .entry {} [], rfl, by decide⟩, ⟨standing (.receive 32 0) .entry {} [], rfl, by decide⟩⟩

theorem witness_ReceiveEntersAndPolls :
    (∃ s : State, s.phase = .busy (.receive 32 0) .erx) ∧
    (∃ s : State, s.phase = .busy (.receive 32 0) .erw ∧ s.work.cfg = some 0xFE#8) ∧
    (∃ s : State, s.phase = .busy (.receive 32 0) .erp) ∧ (∃ s : State, s.phase = .busy (.receive 32 0) .poll) ∧
    (∃ s : State, s.phase = .busy (.receive 32 0) .yld ∧ s.env.hookReturned = true) :=
  ⟨⟨standing (.receive 32 0) .erx {} [], rfl⟩, ⟨standing (.receive 32 0) .erw { cfg := some 0xFE#8 } [], rfl, rfl⟩,
    ⟨standing (.receive 32 0) .erp {} [], rfl⟩, ⟨standing (.receive 32 0) .poll {} [], rfl⟩,
    ⟨standing (.receive 32 0) .yld {} [], rfl, rfl⟩⟩

/-- The deadline clauses at the ends: elapsed 32 (passed) and 31 (not) of a timeout of 32, across a wrap. -/
theorem witness_ReceivePollAndDeadline :
    (∃ s : State, s.phase = .busy (.receive 32 0) .test ∧ s.work.fs = some 0x10#8 ∧ (0x10#8).getLsbD 0 = false) ∧
    (∃ s : State, s.phase = .busy (.receive 32 0) .test ∧ s.work.fs = some 0x11#8 ∧ (0x11#8).getLsbD 0 = true) ∧
    (∃ s : State, s.phase = .busy (.receive 32 1) .test ∧ s.work.fs = some 0x11#8 ∧ 1 ≠ 0) ∧
    (∃ s : State, s.phase = .busy (.receive 32 32) .deadline ∧ s.work.t0 = some 0xFFFFFFF0 ∧ s.work.now = some 0x10 ∧
      0xFFFFFFF0 < 2 ^ s.par.tickBits ∧ 0x10 < 2 ^ s.par.tickBits ∧
      32 ≤ (0x10 + 2 ^ s.par.tickBits - 0xFFFFFFF0) % 2 ^ s.par.tickBits) ∧
    (∃ s : State, s.phase = .busy (.receive 32 32) .deadline ∧ s.work.t0 = some 0xFFFFFFF0 ∧ s.work.now = some 0x0F ∧
      0xFFFFFFF0 < 2 ^ s.par.tickBits ∧ 0x0F < 2 ^ s.par.tickBits ∧
      (0x0F + 2 ^ s.par.tickBits - 0xFFFFFFF0) % 2 ^ s.par.tickBits < 32) :=
  ⟨⟨standing (.receive 32 0) .test { fs := some 0x10#8 } [], rfl, rfl, by decide⟩,
    ⟨standing (.receive 32 0) .test { fs := some 0x11#8 } [], rfl, rfl, by decide⟩,
    ⟨standing (.receive 32 1) .test { fs := some 0x11#8 } [], rfl, rfl, by decide⟩,
    ⟨standing (.receive 32 32) .deadline { t0 := some 0xFFFFFFF0, now := some 0x10 } [],
      rfl, rfl, rfl, by decide, by decide, by decide⟩,
    ⟨standing (.receive 32 32) .deadline { t0 := some 0xFFFFFFF0, now := some 0x0F } [],
      rfl, rfl, rfl, by decide, by decide, by decide⟩⟩

theorem witness_ReceiveWidthPayloadAndEnd :
    (∃ s : State, s.phase = .busy (.receive 32 0) .pay ∧ s.work.w = some 33#8 ∧ 32 < (33#8).toNat ∧ s.faultMark =
      none) ∧
    (∃ s : State, s.phase = .busy (.receive 32 0) .pay ∧ s.work.w = some 32#8 ∧ (32#8).toNat ≤ 32) ∧
    (∃ s : State, s.phase = .busy (.receive 32 0) .pay ∧ s.work.w = some 0#8 ∧ (0#8).toNat ≤ 32) ∧
    (∃ s : State, s.phase = .busy (.receive 32 0) .sby ∧ s.work.rd = some [0x4E#8]) ∧
    (∃ s : State, s.phase = .busy (.receive 32 0) .ret ∧ s.work.rd = some [0x4E#8] ∧ s.work.w = some 0#8 ∧
      ([] : List Byte).length = (0#8).toNat ∧ s.work.pipe = some 7#3) ∧
    (∃ s : State, s.phase = .busy (.receive 32 0) .fail) :=
  ⟨⟨standing (.receive 32 0) .pay { w := some 33#8 } [], rfl, rfl, by decide, rfl⟩,
    ⟨standing (.receive 32 0) .pay { w := some 32#8 } [], rfl, rfl, by decide⟩,
    ⟨standing (.receive 32 0) .pay { w := some 0#8 } [], rfl, rfl, by decide⟩,
    ⟨standing (.receive 32 0) .sby { rd := some [0x4E#8] } [], rfl, rfl⟩,
    ⟨standing (.receive 32 0) .ret { rd := some [0x4E#8], w := some 0#8, pipe := some 7#3 } [],
      rfl, rfl, rfl, rfl, rfl⟩,
    ⟨standing (.receive 32 0) .fail {} [], rfl⟩⟩

theorem witness_YieldWaitsForTheHook :
    (∃ s : State, s.phase = .busy (.send 0 []) .yld ∧ s.env.hookReturned = false) ∧
    (∃ s : State, s.phase = .busy (.receive 32 0) .yld ∧ s.env.hookReturned = false) :=
  ⟨⟨{ standing (.send 0 []) .yld {} [] with env := { Env.fresh 0 with hook := [false] } }, rfl, rfl⟩,
    ⟨{ standing (.receive 32 0) .yld {} [] with env := { Env.fresh 0 with hook := [false] } }, rfl, rfl⟩⟩

/-! ### Whole operations -/

theorem witness_ReadRegFromRequestToResponse :
    (waiting [.call { opc := 0x01#8, addr := 0xFF#8 }] [.ok [0#8]]).ready { opc := 0x01#8, addr := 0xFF#8 } [] ∧
    (waiting [.call { opc := 0x01#8, addr := 0xFF#8 }] [.ok [0#8]]).env.bus = [.ok [0#8]] :=
  ⟨ready_waiting, rfl⟩

theorem witness_PowerUpFromRequestToResponse :
    (waiting [.call { opc := 0x10#8 }] [.ok [0x58#8], .ok []]).ready { opc := 0x10#8 } [] ∧
    (waiting [.call { opc := 0x10#8 }] [.ok [0x58#8], .ok []]).env.bus = [.ok [0x58#8], .ok []] :=
  ⟨ready_waiting, rfl⟩

theorem witness_FailedTransitionLeavesThePin :
    ((waiting [.call { opc := 0x12#8 }] [.err]).ready { opc := 0x12#8 } [] ∧
      (waiting [.call { opc := 0x12#8 }] [.err]).env.bus = [.err]) ∧
    ((waiting [.call { opc := 0x13#8 }] [.ok [0x0B#8], .err]).ready { opc := 0x13#8 } [] ∧
      (waiting [.call { opc := 0x13#8 }] [.ok [0x0B#8], .err]).env.bus = [.ok [0x0B#8], .err]) :=
  ⟨⟨ready_waiting, rfl⟩, ⟨ready_waiting, rfl⟩⟩

theorem witness_StandbyIsIdempotent :
    (waiting [.call { opc := 0x14#8 }, .call { opc := 0x14#8 }] []).ready { opc := 0x14#8 } [.call { opc :=
      0x14#8 }] :=
  ⟨⟨rfl, rfl⟩, rfl, rfl, rfl⟩

/-- A block ready for a request, with scripts for the device, the tick source and the hook. -/
def ready (r : Request) (par : Params) (bus : List BusAnswer) (ticks : List Nat) (hook : List Bool) : State :=
  State.init { busClient := 1, cePin := 2, irqPin := none } par true
    { Env.fresh 0 with host := [.call r], bus := bus, tickSteps := ticks, hook := hook }

theorem ready_ready {r : Request} {par : Params} {bus : List BusAnswer} {ticks : List Nat} {hook : List Bool} :
    (ready r par bus ticks hook).ready r [] := ⟨⟨rfl, rfl⟩, rfl, rfl, rfl⟩

/-- 33 bytes in two chunks, the first acknowledged after one quiet snapshot; and the empty buffer. -/
theorem witness_SendDeliversTheWholeBuffer :
    (∃ (s : State) (data : List Byte) (acks : AckLog),
      s.ready { opc := 0x20#8, len := data.length, data := data } [] ∧ data.length < 2 ^ s.par.lenBits ∧
      s.par.clearTxDs = true ∧ (0x0E#8).getLsbD 0 = false ∧ acks.length = (data.length + 31) / 32 ∧
      acknowledged s.par acks = true ∧ s.env.bus =
        BusAnswer.ok [0x0E#8] :: BusAnswer.ok [0x0A#8] :: BusAnswer.ok [] :: (sendAnswers acks ++ []) ∧
      s.env.hook = List.replicate (sendYields acks) true ++ [] ∧ data.length = 33) ∧
    (∃ (s : State) (acks : AckLog), s.ready { opc := 0x20#8 } [] ∧ acks.length = (0 + 31) / 32 ∧
      acknowledged s.par acks = true ∧ s.env.bus =
        BusAnswer.ok [0x0E#8] :: BusAnswer.ok [0x0A#8] :: BusAnswer.ok [] :: (sendAnswers acks ++ []) ∧
      s.env.hook = List.replicate (sendYields acks) true ++ []) :=
  ⟨⟨ready { opc := 0x20#8, len := (counting 33).length, data :=
    counting 33 } { Params.default with txPollLimit := some 2 }
        ([BusAnswer.ok [0x0E#8], BusAnswer.ok [0x0A#8], BusAnswer.ok []] ++ sendAnswers [([0x0E#8], 0x2E#8), ([],
          0x2E#8)]) [] [true],
      counting 33, [([0x0E#8], 0x2E#8), ([], 0x2E#8)],
      ready_ready, by decide, rfl, by decide, by simp [counting], by decide,
      by simp [ready, State.init, Env.fresh, sendAnswers, pollAnswers],
      by simp [ready, State.init, Env.fresh, sendYields], by simp [counting]⟩,
    ⟨ready { opc := 0x20#8 } Params.default [BusAnswer.ok [0x0E#8], BusAnswer.ok [0x0A#8], BusAnswer.ok []] [] [], [],
      ready_ready, rfl, rfl, rfl, rfl⟩⟩

/-- One chunk acknowledged and MAX_RT in the second; and a poll limit of 2 reached in the first. -/
theorem witness_SendTimesOutAndRecovers :
    (∃ (s : State) (data : List Byte) (acks : AckLog) (polls : List Byte) (last : Byte) (hook : List Bool),
      s.ready { opc := 0x20#8, len := data.length, data := data } [] ∧ data.length < 2 ^ s.par.lenBits ∧
      s.par.clearTxDs = true ∧ 32 * acks.length < data.length ∧ acknowledged s.par acks = true ∧
      polls.all quietStatus = true ∧ (∀ l, s.par.txPollLimit = some l → polls.length < l) ∧ last.getLsbD 4 = true ∧
      s.env.bus = BusAnswer.ok [0x0E#8] :: BusAnswer.ok [0x0A#8] :: BusAnswer.ok [] ::
        (sendAnswers acks ++ BusAnswer.ok [] :: (pollAnswers polls ++
          BusAnswer.ok [last] :: BusAnswer.ok [] :: BusAnswer.ok [] :: [])) ∧
      s.env.hook = List.replicate (sendYields acks + polls.length) true ++ hook ∧ acks.length = 1) ∧
    (∃ (s : State) (data : List Byte) (polls : List Byte) (last : Byte) (hook : List Bool),
      s.ready { opc := 0x20#8, len := data.length, data := data } [] ∧ 0 < data.length ∧
      polls.all quietStatus = true ∧ (∀ l, s.par.txPollLimit = some l → polls.length < l) ∧ quietStatus last = true ∧
      s.par.txPollLimit = some (polls.length + 1) ∧
      s.env.bus = BusAnswer.ok [0x0E#8] :: BusAnswer.ok [0x0A#8] :: BusAnswer.ok [] ::
        (sendAnswers [] ++ BusAnswer.ok [] :: (pollAnswers polls ++
          BusAnswer.ok [last] :: BusAnswer.ok [] :: BusAnswer.ok [] :: [])) ∧
      s.env.hook = List.replicate (sendYields [] + polls.length) true ++ hook) :=
  ⟨⟨ready { opc := 0x20#8, len := (counting 33).length, data := counting 33 } Params.default
        ([BusAnswer.ok [0x0E#8], BusAnswer.ok [0x0A#8], BusAnswer.ok []] ++ sendAnswers [([], 0x2E#8)] ++
          [BusAnswer.ok [], BusAnswer.ok [0x0E#8], BusAnswer.ok [0x1E#8], BusAnswer.ok [],
            BusAnswer.ok []]) [] [true],
      counting 33, [([], 0x2E#8)], [0x0E#8], 0x1E#8, [],
      ready_ready, by decide, rfl, by decide, by decide, by decide, fun _ h => (by cases h), by decide,
      by simp [ready, State.init, Env.fresh, sendAnswers, pollAnswers],
      by simp [ready, State.init, Env.fresh, sendYields], rfl⟩,
    ⟨ready { opc := 0x20#8, len := ([0x55#8] : List Byte).length, data :=
      [0x55#8] } { Params.default with txPollLimit := some 2 }
        [BusAnswer.ok [0x0E#8], BusAnswer.ok [0x0A#8], BusAnswer.ok [], BusAnswer.ok [], BusAnswer.ok [0x0E#8],
          BusAnswer.ok [0x0E#8], BusAnswer.ok [], BusAnswer.ok []] [] [true],
      [0x55#8], [0x0E#8], 0x0E#8, [],
      ready_ready, by decide, by decide, fun _ h => (by cases h; decide), by decide, rfl,
      by simp [ready, State.init, Env.fresh, sendAnswers, pollAnswers],
      by simp [ready, State.init, Env.fresh, sendYields]⟩⟩

theorem witness_SendPollsWithoutBound :
    ∃ (s : State) (polls : List Byte), s.unmarked ∧ keepsProtocol s.env.host = true ∧ s.par.txPollLimit = none ∧
      s.phase = .busy (.send 1 [0x55#8]) .yld ∧ s.work.polls = some 1 ∧ polls ≠ [] ∧ polls.all quietStatus = true ∧
      s.env.bus = pollAnswers polls ++ [] ∧ s.env.hook = List.replicate polls.length true ++ [] :=
  ⟨standing (.send 1 [0x55#8]) .yld { polls := some 1 } [BusAnswer.ok [0x0E#8]], [0x0E#8],
    ⟨rfl, rfl⟩, rfl, rfl, rfl, rfl, by decide, by decide, rfl, rfl⟩

/-- One empty poll, then a payload of the largest width; and an empty payload at once (V-RX-10). -/
theorem witness_ReceiveWithoutTimeoutWaitsForData :
    (∃ (s : State) (polls payload : List Byte), s.ready { opc := 0x21#8, cap := 32, timeout := 0 } [] ∧
      32 < 2 ^ s.par.lenBits ∧ (polls.all fun x => x.getLsbD 0) = true ∧ (0x10#8).getLsbD 0 = false ∧
      (32#8).toNat ≤ 32 ∧ payload.length = (32#8).toNat ∧
      s.env.bus = BusAnswer.ok [0x0A#8] :: BusAnswer.ok [] ::
        (pollAnswers polls ++
          BusAnswer.ok [0x10#8] :: BusAnswer.ok [32#8] :: BusAnswer.ok (0x4A#8 :: payload) :: []) ∧
      s.env.hook = List.replicate polls.length true ++ [] ∧ polls.length = 1) ∧
    (∃ s : State, s.ready { opc := 0x21#8, cap := 32, timeout := 0 } [] ∧ ([] : List Byte).length = (0#8).toNat ∧
      s.env.bus = BusAnswer.ok [0x0A#8] :: BusAnswer.ok [] :: (pollAnswers [] ++
        BusAnswer.ok [0x10#8] :: BusAnswer.ok [0#8] :: BusAnswer.ok [0x4E#8] :: []) ∧
      s.env.hook = List.replicate 0 true ++ []) :=
  ⟨⟨ready { opc := 0x21#8, cap := 32 } Params.default
        [BusAnswer.ok [0x0A#8], BusAnswer.ok [], BusAnswer.ok [0x11#8], BusAnswer.ok [0x10#8],
          BusAnswer.ok [32#8], BusAnswer.ok (0x4A#8 :: counting 32)] [7] [true],
      [0x11#8], counting 32, ready_ready, by decide, by decide, by decide, by decide, by simp [counting],
      by simp [ready, State.init, Env.fresh, pollAnswers], by simp [ready, State.init, Env.fresh], rfl⟩,
    ⟨ready { opc := 0x21#8, cap := 32 } Params.default [BusAnswer.ok [0x0A#8], BusAnswer.ok [],
      BusAnswer.ok [0x10#8], BusAnswer.ok [0#8], BusAnswer.ok [0x4E#8]] [7] [],
      ready_ready, rfl, rfl, rfl⟩⟩

/-- V-L1-8 with one empty poll before the deadline; and V-RX-5, no poll before it. -/
theorem witness_ReceiveTimesOutAtTheDeadline :
    (∃ (s : State) (polls : TimedPolls) (d : Nat), s.ready { opc := 0x21#8, cap := 32, timeout := 50 } [] ∧
      32 < 2 ^ s.par.lenBits ∧ 50 < 2 ^ s.par.tickBits ∧ (polls.all fun x => x.1.getLsbD 0) = true ∧
      (0x11#8).getLsbD 0 = true ∧ ticksPassed polls < 50 ∧ 50 ≤ ticksPassed polls + d ∧
      ticksPassed polls + d < 2 ^ s.par.tickBits ∧
      s.env.bus = BusAnswer.ok [0x0A#8] :: BusAnswer.ok [] :: (pollAnswers (polls.map Prod.fst) ++
        BusAnswer.ok [0x11#8] :: []) ∧
      s.env.tickSteps = 1000 :: (polls.map Prod.snd ++ d :: []) ∧
      s.env.hook = List.replicate polls.length true ++ [] ∧ polls.length = 1) ∧
    (∃ s : State, s.ready { opc := 0x21#8, cap := 32, timeout := 1 } [] ∧
      s.env.bus = BusAnswer.ok [0x0A#8] :: BusAnswer.ok [] :: (pollAnswers [] ++ BusAnswer.ok [0x11#8] :: []) ∧
      s.env.tickSteps = 0 :: ([] ++ 1 :: []) ∧ ticksPassed [] < 1 ∧ 1 ≤ ticksPassed [] + 1 ∧ s.env.hook = []) :=
  ⟨⟨ready { opc := 0x21#8, cap := 32, timeout := 50 } Params.default
        [BusAnswer.ok [0x0A#8], BusAnswer.ok [], BusAnswer.ok [0x11#8], BusAnswer.ok [0x11#8]] [1000, 49, 1] [true],
      [(0x11#8, 49)], 1, ready_ready, by decide, by decide, by decide, by decide, by decide, by decide, by decide,
      by simp [ready, State.init, Env.fresh, pollAnswers], by simp [ready, State.init], by simp [ready,
        State.init], rfl⟩,
    ⟨ready { opc := 0x21#8, cap := 32, timeout := 1 } Params.default [BusAnswer.ok [0x0A#8], BusAnswer.ok [],
      BusAnswer.ok [0x11#8]] [0, 1] [],
      ready_ready, rfl, rfl, by decide, by decide, rfl⟩⟩

/-! ### What every step keeps -/

/-- RECEIVE about to read the payload meets the invariant, whatever width was answered. -/
theorem standing_pay_inv (w : Byte) (bus : List BusAnswer) :
    StateInv (standing (.receive 32 50) .pay { t0 := some 7, w := some w } bus) where
  params := rfl
  memory := List.Pairwise.nil
  atRest h := absurd rfl (h _ _)
  inside i l h := by
    cases h
    exact ⟨(by decide : (Instr.receive 32 50).wf Params.default = true), rfl, fun v hv => by cases hv; rfl⟩
  frames f a h := nomatch h
  startTick v h := by cases h; exact (by decide : 7 < 2 ^ 32)
  pollTick v h := nomatch h

theorem witness_StepKeepsInvariant :
    StateInv (standing (.receive 32 50) .pay { t0 := some 7, w := some 32#8 } []) ∧
    ∃ t, step (standing (.receive 32 50) .pay { t0 := some 7, w := some 32#8 } []) = .next t :=
  ⟨standing_pay_inv _ _, _, rfl⟩

theorem witness_OnlyWidthFaultsAreRaised :
    StateInv (standing (.receive 32 50) .pay { t0 := some 7, w := some 33#8 } []) ∧
    ∃ t, step (standing (.receive 32 50) .pay { t0 := some 7, w := some 33#8 } []) = .next t ∧
      t.faultMark = some .rxWidthInvalid :=
  ⟨standing_pay_inv _ _, _, rfl, rfl⟩

theorem witness_OneResponsePerRequest :
    AllAnswered (waiting [.call { opc := 0x14#8 }] []) ∧ ∃ t, step (waiting [.call { opc := 0x14#8 }] []) = .next t :=
  ⟨rfl, _, rfl⟩

theorem witness_ConfigurationIsFixed : ∃ t, step (standing .enterStandby .entry {} []) = .next t := ⟨_, rfl⟩

theorem witness_AtMostOneActionPerStep :
    (∃ t, step (waiting [] []) = .next t) ∧ ∃ t, step (standing .enterStandby .entry {} []) = .next t :=
  ⟨⟨_, rfl⟩, ⟨_, rfl⟩⟩

theorem witness_ChipEnableFollowsPinWrites :
    (∃ t, step (standing .enterStandby .entry {} []) = .next t ∧
      t.history = (standing .enterStandby .entry {} []).history ++ [Event.pin false]) ∧
    (∃ t, step (standing .flushTx .ret {} []) = .next t ∧
      ∀ v, t.history ≠ (standing .flushTx .ret {} []).history ++ [Event.pin v]) :=
  ⟨⟨_, rfl, rfl⟩, ⟨_, rfl, fun _ h => by cases h⟩⟩

theorem witness_OutputBufferFollowsResponses :
    ∃ t, step (standing (.readAddrReg 0#8 5) .ret { rd := some (counting 5) } []) = .next t ∧ t.out ≠ [] :=
  ⟨_, rfl, by decide⟩

theorem witness_IssuedFramesAreLegal :
    ∃ t f a, step (standing .flushTx .entry {} [BusAnswer.ok []]) = .next t ∧
      t.history = (standing .flushTx .entry {} [BusAnswer.ok []]).history ++ [Event.bus f a] :=
  ⟨_, _, _, rfl, rfl⟩

theorem witness_TickCountNeverDecreases :
    ∃ t, step (standing (.receive 32 0) .entry {} []) = .next t ∧ t.env.tick = 7 := ⟨_, rfl, rfl⟩

theorem witness_ReceiveWritesOnlyConfig :
    ∃ t f a, step (standing (.receive 32 0) .erw { cfg := some 0x0A#8 } [BusAnswer.ok []]) = .next t ∧
      t.history = (standing (.receive 32 0) .erw { cfg := some 0x0A#8 } [BusAnswer.ok []]).history ++
        [Event.bus f a] :=
  ⟨_, _, _, rfl, rfl⟩

end Sys2Proof.Tests
end

section
/-! PROOFS. Small laws of the definitions the invariant is stated in: which frames are legal, the shape of an
answer, and what the position predicates say. -/

namespace Sys2Proof.Machine

open Sys2Proof

/-! ## Frames of R85 are legal -/

/-- A frame that decodes to anything but NOP may be issued (R87, R119). -/
theorem legalFrame_of_decode {f : Frame} {i : Instr} (hd : decodeFrame f = .ok i) (hn : i ≠ .cmdNop) :
    legalFrame f = true := by
  simp [legalFrame, hd, hn]

theorem legalFrame_readReg {a5 : BitVec 5} {n : Nat} (hn : regWidthOk n = true) :
    legalFrame (frameReadReg a5 n) = true :=
  legalFrame_of_decode (Laws.RoundTrip.rRegister a5 n Params.default hn) nofun

theorem legalFrame_writeReg {a5 : BitVec 5} {bytes : List Byte} (hn : regWidthOk bytes.length = true) :
    legalFrame (frameWriteReg a5 bytes) = true :=
  legalFrame_of_decode (Laws.RoundTrip.wRegister a5 bytes Params.default hn) nofun

theorem legalFrame_readWidth : legalFrame frameReadWidth = true :=
  legalFrame_of_decode (Laws.RoundTrip.rRxPlWid Params.default rfl) nofun

theorem legalFrame_readPayload {w : Byte} (hw : w.toNat ≤ Config.maxPayload) :
    legalFrame (frameReadPayload w) = true :=
  legalFrame_of_decode (Laws.RoundTrip.rRxPayload w Params.default (decide_eq_true hw)) nofun

theorem legalFrame_writePayload {payload : List Byte} (hp : payload.length ≤ Config.maxPayload) :
    legalFrame (frameWritePayload payload) = true :=
  legalFrame_of_decode (Laws.RoundTrip.wTxPayload payload Params.default (decide_eq_true hp)) nofun

@[simp] theorem legalFrame_flushTx : legalFrame frameFlushTx = true :=
  legalFrame_of_decode (Laws.RoundTrip.cmdFlushTx Params.default rfl) nofun

@[simp] theorem legalFrame_flushRx : legalFrame frameFlushRx = true :=
  legalFrame_of_decode (Laws.RoundTrip.cmdFlushRx Params.default rfl) nofun

/-! ## Lengths of slices and answers -/

theorem bufSlice_length_le (buf : List Byte) (i n : Nat) : (bufSlice buf i n).length ≤ n :=
  List.length_take_le _ _

theorem chunkLen_le (len off : Nat) : chunkLen len off ≤ Config.maxPayload := Nat.min_le_left _ _

/-- The chunk register `n` is wide enough for every chunk length (R23, R163). -/
theorem chunkLen_toNat (len off : Nat) : (BitVec.ofNat 6 (chunkLen len off)).toNat = chunkLen len off := by
  have h : chunkLen len off ≤ 32 := chunkLen_le len off
  rw [BitVec.toNat_ofNat]
  omega

/-- An answer has as many bytes as the frame requests (R13, R31). -/
theorem busAnswer_length {e : Env} {f : Frame} {rx : List Byte} (h : e.busAnswer f = .ok rx) :
    rx.length = rxCount f := by
  unfold Env.busAnswer at h
  split at h
  · cases h
    exact fitAnswer_length _ _ _
  · cases h
  · split at h
    · cases h
    · cases h
      exact fitAnswer_length _ _ _

/-- An R_RX_PAYLOAD answer is the STATUS byte and the payload, also for the width 0 (R85, R123). -/
theorem rxCount_readPayload (w : Byte) : rxCount (frameReadPayload w) = 1 + w.toNat := by
  by_cases hw : w = 0#8 <;> simp [frameReadPayload, hw]

/-! ## What the position predicates say -/

theorem simplePosition_cases {l : Label} {result : Bool} (h : simplePosition l result = true) :
    l = .entry ∨ l = .fail ∨ l = .ret ∧ result = true := by
  cases l <;> simp_all [simplePosition]

theorem transitionPosition_cases {l : Label} {pin : Bool} {r : Work} (h : transitionPosition l pin r = true) :
    l = .entry ∨ l = .fail ∨ l = .ret ∨ l = .w ∧ r.cfg.isSome = true ∨ l = .p ∧ pin = true := by
  cases l <;> simp_all [transitionPosition]

theorem chunkInFlight_iff {len : Nat} {r : Work} :
    chunkInFlight len r = true ↔
      ∃ off n, r.off = some off ∧ r.n = some n ∧ off < len ∧ n.toNat = chunkLen len off := by
  unfold chunkInFlight
  cases r.off <;> cases r.n <;> simp

theorem payloadHeld_iff {r : Work} :
    payloadHeld r = true ↔
      ∃ w rx, r.w = some w ∧ r.rd = some rx ∧ w.toNat ≤ Config.maxPayload ∧ rx.length = 1 + w.toNat := by
  unfold payloadHeld
  cases r.w <;> cases r.rd <;> simp

/-- Every instruction may stand at its entry, whatever its registers hold (R22). -/
theorem positionOk_entry (i : Instr) (r : Work) : positionOk i .entry r = true := by
  cases i <;> rfl

/-- A position right after acceptance implies nothing about chip-enable. -/
theorem impliedCe_entry (i : Instr) : impliedCe i .entry = none := by
  cases i <;> rfl

/-- Nor does the position after a failed transaction: no pin write is between (R14). -/
theorem impliedCe_fail (i : Instr) : impliedCe i .fail = none := by
  cases i <;> rfl

end Sys2Proof.Machine
end

section
/-! PROOFS. The invariant, operation by operation: each primitive action keeps the part of StateInv that holds
inside an operation whatever the position, and moves to a position whose own clause holds. -/

namespace Sys2Proof.Machine

open Sys2Proof

/-! ## The invariant without the position -/

/-- Every frame of an event history is legal (R87, R119). -/
def FramesLegal (h : List Event) : Prop := ∀ f a, Event.bus f a ∈ h → legalFrame f = true

theorem FramesLegal.append {h : List Event} {e : Event} (hh : FramesLegal h)
    (he : ∀ f a, e = .bus f a → legalFrame f = true) : FramesLegal (h ++ [e]) := by
  intro f a hm
  rcases List.mem_append.mp hm with hm | hm
  · exact hh f a hm
  · exact he f a (List.mem_singleton.mp hm).symm

/-- What StateInv says inside instruction i whatever the position. -/
structure InOperation (i : Instr) (s : State) : Prop where
  params : s.par.wf = true
  memory : Memory.wf s.out
  wellFormed : i.wf s.par = true
  frames : FramesLegal s.history
  startTick : tickFits s.par s.work.t0
  pollTick : tickFits s.par s.work.now

theorem StateInv.inOperation {i : Instr} {l : Label} {s : State} (h : StateInv s) (hp : s.phase = .busy i l) :
    InOperation i s where
  params := h.params
  memory := h.memory
  wellFormed := (h.inside i l hp).1
  frames := h.frames
  startTick := h.startTick
  pollTick := h.pollTick

/-- With the clause of the position, the invariant. -/
theorem InOperation.stateInv {i : Instr} {l : Label} {s : State} (hs : InOperation i s) (hp : s.phase = .busy i l)
    (hpos : positionOk i l s.work = true) (hce : ∀ v, impliedCe i l = some v → s.ce = v) : StateInv s where
  params := hs.params
  memory := hs.memory
  atRest h := absurd hp (h i l)
  inside j m h := by
    rw [hp] at h
    cases h
    exact ⟨hs.wellFormed, hpos, hce⟩
  frames := hs.frames
  startTick := hs.startTick
  pollTick := hs.pollTick

/-- Outside an operation no tick register holds anything, so the clauses that are left are these. -/
theorem stateInv_of_atRest {s : State} (hpar : s.par.wf = true) (hmem : Memory.wf s.out)
    (hfr : FramesLegal s.history) (hp : ∀ i l, s.phase ≠ .busy i l) (hw : s.work = Work.empty) : StateInv s where
  params := hpar
  memory := hmem
  atRest _ := hw
  inside i l h := absurd h (hp i l)
  frames := hfr
  startTick v h := by rw [hw] at h; cases h
  pollTick v h := by rw [hw] at h; cases h

/-! ### Frame rules -/

/-- Working registers may change as long as the tick registers hold readings of their width; by default they keep
their values. -/
theorem InOperation.setWork {i : Instr} {s : State} {r : Work} (hs : InOperation i s)
    (h0 : tickFits s.par r.t0 := by exact hs.startTick) (h1 : tickFits s.par r.now := by exact hs.pollTick) :
    InOperation i (s.setWork r) :=
  { hs with startTick := h0, pollTick := h1 }

theorem InOperation.goto {i j : Instr} {l : Label} {s : State} (hs : InOperation i s) :
    InOperation i (s.goto j l) :=
  { hs with }

theorem InOperation.popHook {i : Instr} {s : State} (hs : InOperation i s) : InOperation i s.popHook :=
  { hs with }

theorem InOperation.pinWrite {i : Instr} {level : Bool} {s : State} (hs : InOperation i s) :
    InOperation i (s.pinWrite level) :=
  { hs with frames := hs.frames.append nofun }

theorem InOperation.tickRead {i : Instr} {s : State} (hs : InOperation i s) : InOperation i s.tickRead :=
  { hs with frames := hs.frames.append nofun }

theorem InOperation.recordYield {i : Instr} {s : State} (hs : InOperation i s) :
    InOperation i (s.record .yield) :=
  { hs with frames := hs.frames.append nofun }

theorem InOperation.afterBus {i : Instr} {f : Frame} {s : State} (hs : InOperation i s)
    (hf : legalFrame f = true) : InOperation i (s.afterBus f) :=
  { hs with frames := hs.frames.append fun _ _ h => by cases h; exact hf }

/-- The host's own act touches nothing the invariant speaks of. -/
theorem StateInv.popHost {s : State} (h : StateInv s) : StateInv s.popHost :=
  { h with }

/-- A recorded model fault stops the block and changes nothing else (R229). -/
theorem StateInv.withFaultMark {s : State} (h : StateInv s) (m : Option Fault) :
    StateInv { s with faultMark := m } :=
  { h with }

theorem StateInv.withRefusalMark {s : State} (h : StateInv s) (m : Option Refusal) :
    StateInv { s with refusalMark := m } :=
  { h with }

theorem StateInv.deliver {s : State} (h : StateInv s) (r : Response) : StateInv (s.deliver r) :=
  stateInv_of_atRest h.params (Memory.writeBytes_wf _ _ _ h.memory) (FramesLegal.append h.frames nofun) nofun rfl

/-! ## Outcomes that keep the invariant -/

/-- If the outcome is a next state, that state meets the invariant. -/
def Keeps (o : Out) : Prop := ∀ t, o = .next t → StateInv t

theorem keeps_next {t : State} (h : StateInv t) : Keeps (.next t) := by
  intro u hu
  cases hu
  exact h

theorem StateInv.keeps_raise {s : State} (h : StateInv s) (e : Result) : Keeps (raise e s) := keeps_next (h.deliver _)

theorem StateInv.keeps_returnOk {s : State} (h : StateInv s) (r : Response) : Keeps (returnOk r s) :=
  keeps_next (h.deliver r)

theorem StateInv.keeps_endCommand {s : State} (h : StateInv s) : Keeps (endCommand s) :=
  keeps_next (stateInv_of_atRest h.params h.memory h.frames nofun rfl)

/-- A register that the position says is written is read. -/
theorem keeps_need {α : Type} {r : Option α} {s : State} {k : α → Out} (hr : r.isSome = true)
    (h : ∀ v, r = some v → Keeps (k v)) : Keeps (need r s k) := by
  obtain ⟨v, rfl⟩ := Option.isSome_iff_exists.mp hr
  exact h v rfl

/-- A function that keeps an answer in the working registers and leaves the tick registers alone. -/
def LeavesTicks (keep : List Byte → Work → Work) : Prop :=
  ∀ rx r, (keep rx r).t0 = r.t0 ∧ (keep rx r).now = r.now

section
variable {i : Instr} {l : Label} {s : State}

/-- A transaction: its frame is legal, the position after its failure is one of the instruction's, and so is
the next position with what an answer of the requested length leaves in the registers. -/
theorem InOperation.keeps_transact {f : Frame} {keep : List Byte → Work → Work} (hs : InOperation i s)
    (hf : legalFrame f = true) (hfail : positionOk i .fail s.work = true)
    (hce : ∀ v, impliedCe i l = some v → s.ce = v)
    (hnext : ∀ rx, rx.length = rxCount f → positionOk i l (keep rx s.work) = true)
    (ht : LeavesTicks keep := by exact fun _ _ => ⟨rfl, rfl⟩) : Keeps (transact i f l keep s) := by
  refine keeps_next ?_
  have hb : InOperation i (s.afterBus f) := hs.afterBus hf
  cases ha : s.env.busAnswer f with
  | ok rx =>
    obtain ⟨h0, h1⟩ := ht rx s.work
    have hk : InOperation i ((s.afterBus f).setWork (keep rx s.work)) :=
      hb.setWork (h0 ▸ hs.startTick) (h1 ▸ hs.pollTick)
    exact (hk.goto (l := l)).stateInv rfl (hnext rx (busAnswer_length ha)) hce
  | err => exact (hb.goto (l := .fail)).stateInv rfl hfail (by simp [impliedCe_fail])

/-- A one-byte register read. -/
theorem InOperation.keeps_regRead {a5 : BitVec 5} {keep : List Byte → Work → Work} (hs : InOperation i s)
    (hfail : positionOk i .fail s.work = true) (hce : ∀ v, impliedCe i l = some v → s.ce = v)
    (hnext : ∀ b, positionOk i l (keep [b] s.work) = true)
    (ht : LeavesTicks keep := by exact fun _ _ => ⟨rfl, rfl⟩) : Keeps (regRead i a5 l keep s) := by
  refine hs.keeps_transact (legalFrame_readReg rfl) hfail hce (fun rx hrx => ?_) ht
  obtain ⟨b, rfl⟩ := List.length_eq_one_iff.mp hrx
  exact hnext b

/-- The width read (R122). -/
theorem InOperation.keeps_readRxPlWid (hs : InOperation i s) (hfail : positionOk i .fail s.work = true)
    (hce : ∀ v, impliedCe i l = some v → s.ce = v) (hnext : ∀ b, positionOk i l { s.work with w := some b } = true) :
    Keeps (readRxPlWid i l s) := by
  refine hs.keeps_transact legalFrame_readWidth hfail hce fun rx hrx => ?_
  obtain ⟨b, rfl⟩ := List.length_eq_one_iff.mp hrx
  exact hnext b

/-- A one-byte register write. -/
theorem InOperation.keeps_regWrite {a5 : BitVec 5} {v : Byte} (hs : InOperation i s)
    (hfail : positionOk i .fail s.work = true) (hce : ∀ v, impliedCe i l = some v → s.ce = v)
    (hnext : positionOk i l s.work = true) : Keeps (regWrite i a5 v l s) :=
  hs.keeps_transact (legalFrame_writeReg rfl) hfail hce fun _ _ => hnext

/-- The CONFIG write of a mode transition (R145). -/
theorem InOperation.keeps_writeConfig {change : Byte → Byte} (hs : InOperation i s)
    (hcfg : s.work.cfg.isSome = true) (hfail : positionOk i .fail s.work = true)
    (hce : ∀ v, impliedCe i l = some v → s.ce = v) (hnext : positionOk i l s.work = true) :
    Keeps (writeConfig i change l s) :=
  keeps_need hcfg fun _ _ => hs.keeps_regWrite hfail hce hnext

/-- A pin write to the level the next position implies. -/
theorem InOperation.keeps_drivePin {level : Bool} (hs : InOperation i s) (hnext : positionOk i l s.work = true)
    (hce : ∀ v, impliedCe i l = some v → level = v) : Keeps (drivePin i level l s) :=
  keeps_next (hs.pinWrite.goto.stateInv rfl hnext hce)

theorem InOperation.keeps_yieldStep (hs : InOperation i s) (hnext : positionOk i .yld s.work = true)
    (hce : ∀ v, impliedCe i .yld = some v → s.ce = v) : Keeps (yieldStep i s) :=
  keeps_next (hs.recordYield.goto.stateInv rfl hnext hce)

/-- A look at the hook: waiting on keeps the invariant as it is. -/
theorem StateInv.keeps_awaitHook {resume : State → Out} (h : StateInv s) (hr : Keeps (resume s.popHook)) :
    Keeps (awaitHook s resume) := by
  unfold awaitHook
  split
  · exact hr
  · exact keeps_next { h with }

/-- A reading fits a tick register (R23, R232). -/
theorem tickFits_reading (s : State) : tickFits s.par (some s.tickReading) := by
  intro v h
  cases h
  exact Nat.mod_lt _ (Nat.two_pow_pos _)

end

end Sys2Proof.Machine
end

section
/-! PROOFS. One step of each instruction keeps the invariant. -/

namespace Sys2Proof.Machine

open Sys2Proof

variable {s : State} {l : Label}

/-! ## After a failed transaction -/

/-- Every operation with a transaction raises BusError there, and nothing else (R14, R226). -/
theorem exec_fail {i : Instr} (hi : i.isHostOp = true) (hn : i ≠ .enterStandby) (hp : s.phase = .busy i .fail) :
    exec i s = raise .busError s := by
  cases i
  case rRegister | wRegister | rRxPlWid | rRxPayload | wTxPayload | cmdFlushTx | cmdFlushRx | cmdNop => cases hi
  case enterStandby => exact absurd rfl hn
  all_goals
    simp only [exec, execReadReg, execWriteReg, execReadAddrReg, execWriteAddrReg, execWriteTxPayload, execFlushTx,
      execFlushRx, execGetStatus, execGetFifoStatus, execPowerUp, execPowerDown, execEnterReceive,
      execEnterTransmit, execSend, execReceive, State.pos_busy hp]

theorem StateInv.keeps_exec_fail {i : Instr} (h : StateInv s) (hp : s.phase = .busy i .fail)
    (hi : i.isHostOp = true) : Keeps (exec i s) := by
  obtain ⟨-, hpos, -⟩ := h.inside i .fail hp
  have hn : i ≠ .enterStandby := by
    rintro rfl
    cases hpos
  rw [exec_fail hi hn hp]
  exact h.keeps_raise _

/-! ## Bus commands (log entry 9) -/

/-- A bus command stands at its entry, or at one of the two positions that end it. -/
theorem command_positions {i : Instr} {r : Work} (hi : i.isHostOp = false) (hpos : positionOk i l r = true) :
    l = .entry ∨ l = .fail ∨ l = .ret := by
  cases i
  case rRegister | wRegister | rRxPlWid | rRxPayload | wTxPayload | cmdFlushTx | cmdFlushRx | cmdNop =>
    obtain h | h | ⟨h, -⟩ := simplePosition_cases hpos
    · exact .inl h
    · exact .inr (.inl h)
    · exact .inr (.inr h)
  all_goals cases hi

theorem exec_command_end {i : Instr} (hi : i.isHostOp = false)
    (hp : s.phase = .busy i .fail ∨ s.phase = .busy i .ret) : exec i s = endCommand s := by
  have hl : s.pos = .fail ∨ s.pos = .ret := hp.imp State.pos_busy State.pos_busy
  cases i
  case rRegister | wRegister | rRxPlWid | rRxPayload | wTxPayload | cmdFlushTx | cmdFlushRx | cmdNop =>
    simp only [exec, execRRegister, execWRegister, execRRxPlWid, execRRxPayload, execWTxPayload, execCmdFlushTx,
      execCmdFlushRx, execCmdNop]
    obtain h | h := hl <;> rw [h]
  all_goals cases hi

theorem InOperation.keeps_command_entry {i : Instr} (hs : InOperation i s) (hi : i.isHostOp = false)
    (hp : s.phase = .busy i .entry) : Keeps (exec i s) := by
  have hl : s.pos = .entry := State.pos_busy hp
  have hw : i.wf s.par = true := hs.wellFormed
  cases i with
  | rRegister a5 n =>
    simp only [exec, execRRegister, hl]
    exact hs.keeps_transact (legalFrame_readReg hw) rfl nofun fun _ _ => rfl
  | wRegister a5 bytes =>
    simp only [exec, execWRegister, hl]
    exact hs.keeps_transact (legalFrame_writeReg hw) rfl nofun fun _ _ => rfl
  | rRxPlWid =>
    simp only [exec, execRRxPlWid, hl]
    exact hs.keeps_readRxPlWid rfl nofun fun _ => rfl
  | rRxPayload w =>
    simp only [exec, execRRxPayload, hl]
    exact hs.keeps_transact (legalFrame_readPayload (of_decide_eq_true hw)) rfl nofun fun _ _ => rfl
  | wTxPayload payload =>
    simp only [exec, execWTxPayload, hl]
    exact hs.keeps_transact (legalFrame_writePayload (of_decide_eq_true hw)) rfl nofun fun _ _ => rfl
  | cmdFlushTx =>
    simp only [exec, execCmdFlushTx, hl]
    exact hs.keeps_transact legalFrame_flushTx rfl nofun fun _ _ => rfl
  | cmdFlushRx =>
    simp only [exec, execCmdFlushRx, hl]
    exact hs.keeps_transact legalFrame_flushRx rfl nofun fun _ _ => rfl
  | cmdNop =>
    simp only [exec, execCmdNop, hl]
    exact keeps_next (hs.goto.stateInv rfl rfl nofun)
  | _ => cases hi

theorem StateInv.keeps_command {i : Instr} (h : StateInv s) (hp : s.phase = .busy i l) (hi : i.isHostOp = false) :
    Keeps (exec i s) := by
  obtain ⟨-, hpos, -⟩ := h.inside i l hp
  obtain rfl | rfl | rfl := command_positions hi hpos
  · exact (h.inOperation hp).keeps_command_entry hi hp
  · exact exec_command_end hi (.inl hp) ▸ h.keeps_endCommand
  · exact exec_command_end hi (.inr hp) ▸ h.keeps_endCommand

/-! ## Register access (R110–R118) -/

theorem StateInv.keeps_readReg {addr : Byte} (h : StateInv s) (hp : s.phase = .busy (.readReg addr) l) :
    Keeps (exec (.readReg addr) s) := by
  obtain ⟨-, hpos, -⟩ := h.inside _ _ hp
  obtain rfl | rfl | ⟨rfl, hrd⟩ := simplePosition_cases hpos
  · simp only [exec, execReadReg, State.pos_busy hp]
    exact (h.inOperation hp).keeps_regRead rfl nofun fun _ => rfl
  · exact h.keeps_exec_fail hp rfl
  · simp only [exec, execReadReg, State.pos_busy hp]
    exact keeps_need hrd fun _ _ => h.keeps_returnOk _

theorem StateInv.keeps_writeReg {addr value : Byte} (h : StateInv s) (hp : s.phase = .busy (.writeReg addr value) l) :
    Keeps (exec (.writeReg addr value) s) := by
  obtain ⟨-, hpos, -⟩ := h.inside _ _ hp
  obtain rfl | rfl | ⟨rfl, -⟩ := simplePosition_cases hpos
  · simp only [exec, execWriteReg, State.pos_busy hp]
    exact (h.inOperation hp).keeps_regWrite rfl nofun rfl
  · exact h.keeps_exec_fail hp rfl
  · simp only [exec, execWriteReg, State.pos_busy hp]
    exact h.keeps_returnOk _

theorem StateInv.keeps_readAddrReg {addr : Byte} {len : Nat} (h : StateInv s)
    (hp : s.phase = .busy (.readAddrReg addr len) l) : Keeps (exec (.readAddrReg addr len) s) := by
  obtain ⟨-, hpos, -⟩ := h.inside _ _ hp
  obtain rfl | rfl | ⟨rfl, hrd⟩ := simplePosition_cases hpos
  · simp only [exec, execReadAddrReg, State.pos_busy hp]
    split
    · exact (h.inOperation hp).keeps_transact (legalFrame_readReg rfl) rfl nofun fun _ _ => rfl
    · exact h.keeps_raise _
  · exact h.keeps_exec_fail hp rfl
  · simp only [exec, execReadAddrReg, State.pos_busy hp]
    exact keeps_need hrd fun _ _ => h.keeps_returnOk _

theorem StateInv.keeps_writeAddrReg {addr : Byte} {len : Nat} {data : List Byte} (h : StateInv s)
    (hp : s.phase = .busy (.writeAddrReg addr len data) l) : Keeps (exec (.writeAddrReg addr len data) s) := by
  obtain ⟨hw, hpos, -⟩ := h.inside _ _ hp
  obtain rfl | rfl | ⟨rfl, -⟩ := simplePosition_cases hpos
  · simp only [exec, execWriteAddrReg, State.pos_busy hp]
    split
    case isTrue h5 =>
      obtain ⟨hd, -⟩ : data.length = len ∧ len < 2 ^ s.par.lenBits := by simpa [Instr.wf] using hw
      have hn : (bufSlice data 0 Config.addrRegLen).length = Config.addrRegLen := by
        simp [bufSlice, hd, h5]
      exact (h.inOperation hp).keeps_transact (legalFrame_writeReg (by rw [hn]; rfl)) rfl nofun fun _ _ => rfl
    case isFalse => exact h.keeps_raise _
  · exact h.keeps_exec_fail hp rfl
  · simp only [exec, execWriteAddrReg, State.pos_busy hp]
    exact h.keeps_returnOk _

theorem StateInv.keeps_writeTxPayload {len : Nat} {data : List Byte} (h : StateInv s)
    (hp : s.phase = .busy (.writeTxPayload len data) l) : Keeps (exec (.writeTxPayload len data) s) := by
  obtain ⟨-, hpos, -⟩ := h.inside _ _ hp
  obtain rfl | rfl | ⟨rfl, -⟩ := simplePosition_cases hpos
  · simp only [exec, execWriteTxPayload, State.pos_busy hp]
    split
    case isTrue h32 =>
      exact (h.inOperation hp).keeps_transact (legalFrame_writePayload ((bufSlice_length_le _ _ _).trans h32)) rfl
        nofun fun _ _ => rfl
    case isFalse => exact h.keeps_raise _
  · exact h.keeps_exec_fail hp rfl
  · simp only [exec, execWriteTxPayload, State.pos_busy hp]
    exact h.keeps_returnOk _

theorem StateInv.keeps_flush {i : Instr} (h : StateInv s) (hi : i = .flushTx ∨ i = .flushRx)
    (hp : s.phase = .busy i l) : Keeps (exec i s) := by
  obtain ⟨-, hpos, -⟩ := h.inside _ _ hp
  obtain rfl | rfl := hi
  all_goals
    obtain rfl | rfl | ⟨rfl, -⟩ := simplePosition_cases hpos
    · simp only [exec, execFlushTx, execFlushRx, State.pos_busy hp]
      exact (h.inOperation hp).keeps_transact (by simp) rfl nofun fun _ _ => rfl
    · exact h.keeps_exec_fail hp rfl
    · simp only [exec, execFlushTx, execFlushRx, State.pos_busy hp]
      exact h.keeps_returnOk _

theorem StateInv.keeps_statusRead {i : Instr} (h : StateInv s) (hi : i = .getStatus ∨ i = .getFifoStatus)
    (hp : s.phase = .busy i l) : Keeps (exec i s) := by
  obtain ⟨-, hpos, -⟩ := h.inside _ _ hp
  obtain rfl | rfl := hi
  all_goals
    obtain rfl | rfl | ⟨rfl, hread⟩ := simplePosition_cases hpos
    · simp only [exec, execGetStatus, execGetFifoStatus, State.pos_busy hp]
      exact (h.inOperation hp).keeps_regRead rfl nofun fun _ => rfl
    · exact h.keeps_exec_fail hp rfl
    · simp only [exec, execGetStatus, execGetFifoStatus, State.pos_busy hp]
      exact keeps_need hread fun _ _ => h.keeps_returnOk _

/-! ## Mode transitions (R140–R144) -/

/-- The power transitions end without a pin write (R140, R141). -/
theorem StateInv.keeps_power {i : Instr} (h : StateInv s) (hi : i = .powerUp ∨ i = .powerDown)
    (hp : s.phase = .busy i l) : Keeps (exec i s) := by
  obtain ⟨-, hpos, -⟩ := h.inside _ _ hp
  obtain rfl | rfl := hi
  all_goals
    obtain rfl | rfl | rfl | ⟨rfl, hcfg⟩ | ⟨rfl, hpin⟩ := transitionPosition_cases hpos
    · simp only [exec, execPowerUp, execPowerDown, State.pos_busy hp]
      exact (h.inOperation hp).keeps_regRead rfl nofun fun _ => rfl
    · exact h.keeps_exec_fail hp rfl
    · simp only [exec, execPowerUp, execPowerDown, State.pos_busy hp]
      exact h.keeps_returnOk _
    · simp only [exec, execPowerUp, execPowerDown, State.pos_busy hp]
      exact (h.inOperation hp).keeps_writeConfig hcfg rfl nofun rfl
    · cases hpin

/-- The activity transitions raise CE before they return (R142, R143). -/
theorem StateInv.keeps_activity {i : Instr} (h : StateInv s) (hi : i = .enterReceive ∨ i = .enterTransmit)
    (hp : s.phase = .busy i l) : Keeps (exec i s) := by
  obtain ⟨-, hpos, -⟩ := h.inside _ _ hp
  obtain rfl | rfl := hi
  all_goals
    obtain rfl | rfl | rfl | ⟨rfl, hcfg⟩ | ⟨rfl, -⟩ := transitionPosition_cases hpos
    · simp only [exec, execEnterReceive, execEnterTransmit, State.pos_busy hp]
      exact (h.inOperation hp).keeps_regRead rfl nofun fun _ => rfl
    · exact h.keeps_exec_fail hp rfl
    · simp only [exec, execEnterReceive, execEnterTransmit, State.pos_busy hp]
      exact h.keeps_returnOk _
    · simp only [exec, execEnterReceive, execEnterTransmit, State.pos_busy hp]
      exact (h.inOperation hp).keeps_writeConfig hcfg rfl nofun rfl
    · simp only [exec, execEnterReceive, execEnterTransmit, State.pos_busy hp]
      exact (h.inOperation hp).keeps_drivePin rfl fun _ => Option.some.inj

theorem StateInv.keeps_enterStandby (h : StateInv s) (hp : s.phase = .busy .enterStandby l) :
    Keeps (exec .enterStandby s) := by
  obtain ⟨-, hpos, -⟩ := h.inside _ _ hp
  simp only [exec, execEnterStandby, State.pos_busy hp]
  cases l with
  | entry => exact (h.inOperation hp).keeps_drivePin rfl fun _ => Option.some.inj
  | ret => exact h.keeps_returnOk _
  | _ => cases hpos

/-! ## SEND (R160–R174) -/

section
variable {len : Nat} {data : List Byte}

/-- The loop head, reached with CE high (R163): a chunk goes in flight, or CE falls and the operation returns. -/
theorem InOperation.keeps_sendLoop (hs : InOperation (.send len data) s) (hce : s.ce = true) (off : Nat) :
    Keeps (sendLoop len data off s) := by
  unfold sendLoop
  split
  case isTrue hlt =>
    have hc : chunkInFlight len { s.work with off := some off, n := some (BitVec.ofNat 6 (chunkLen len off)) } = true :=
      chunkInFlight_iff.mpr ⟨off, _, rfl, rfl, hlt, chunkLen_toNat len off⟩
    exact hs.setWork.keeps_transact
      (legalFrame_writePayload ((bufSlice_length_le _ _ _).trans (chunkLen_le _ _))) rfl
      (fun _ h => hce.trans (Option.some.inj h)) fun _ _ => hc
  case isFalse => exact hs.setWork.keeps_drivePin rfl fun _ => Option.some.inj

theorem InOperation.keeps_sendNext (hs : InOperation (.send len data) s) (hce : s.ce = true)
    (hc : chunkInFlight len s.work = true) : Keeps (sendNext len data s) := by
  obtain ⟨off, n, hoff, hn, -⟩ := chunkInFlight_iff.mp hc
  simp only [sendNext, hoff, hn, need_some]
  exact hs.keeps_sendLoop hce _

/-- The tests after a poll read (R165). -/
theorem InOperation.keeps_sendTest (hs : InOperation (.send len data) s) (hce : s.ce = true)
    (hc : chunkInFlight len s.work = true) (hpolls : s.work.polls.isSome = true) (st : Byte) (polls : Nat) :
    Keeps (sendTest len data st polls s) := by
  have hhigh (v : Bool) (h : some true = some v) : s.ce = v := hce.trans (Option.some.inj h)
  have hclear : Keeps (clearIrq (.send len data) .flush s) := hs.keeps_regWrite rfl hhigh rfl
  unfold sendTest
  split
  · exact hclear
  · split
    · split
      · exact hs.keeps_regWrite rfl hhigh hc
      · exact hs.keeps_sendNext hce hc
    · split
      · exact hclear
      · exact hs.keeps_yieldStep (Bool.and_eq_true_iff.mpr ⟨hc, hpolls⟩) hhigh

theorem StateInv.keeps_send (h : StateInv s) (hp : s.phase = .busy (.send len data) l) :
    Keeps (exec (.send len data) s) := by
  obtain ⟨-, hpos, hce⟩ := h.inside _ _ hp
  have hs := h.inOperation hp
  have hhigh (hl : impliedCe (.send len data) l = some true) : s.ce = true := hce true hl
  simp only [positionOk] at hpos
  simp only [exec, execSend, State.pos_busy hp]
  cases l with
  | entry => exact hs.keeps_regRead rfl nofun fun _ => rfl
  | etx =>
    refine keeps_need hpos fun st _ => ?_
    split
    · exact h.keeps_raise _
    · exact hs.keeps_regRead rfl nofun fun _ => rfl
  | etw => exact hs.keeps_writeConfig hpos rfl nofun rfl
  | etp => exact hs.keeps_drivePin rfl fun _ => Option.some.inj
  | chunk => exact hs.keeps_sendLoop (hhigh rfl) 0
  | poll =>
    refine hs.setWork.keeps_regRead rfl hce fun _ => ?_
    simpa [positionOk, sendPosition, keepSt, chunkInFlight_iff] using chunkInFlight_iff.mp hpos
  | test =>
    simp only [sendPosition, Bool.and_eq_true] at hpos
    obtain ⟨⟨hc, hst⟩, hpolls⟩ := hpos
    refine keeps_need hst fun st _ => keeps_need hpolls fun polls _ => ?_
    have hcount : InOperation (.send len data) (s.setWork { s.work with polls := some (polls + 1) }) := hs.setWork
    exact hcount.keeps_sendTest (hhigh rfl) hc rfl st (polls + 1)
  | ack => exact hs.keeps_sendNext (hhigh rfl) hpos
  | yld =>
    refine h.keeps_awaitHook (hs.popHook.keeps_regRead rfl hce fun _ => ?_)
    simpa [positionOk, sendPosition, keepSt, chunkInFlight_iff] using hpos
  | flush => exact hs.keeps_transact legalFrame_flushTx rfl hce fun _ _ => rfl
  | standby => exact hs.keeps_drivePin rfl fun _ => Option.some.inj
  | timeout => exact h.keeps_raise _
  | ret => exact h.keeps_returnOk _
  | fail => exact h.keeps_raise _
  | _ => cases hpos

end

/-! ## RECEIVE (R190–R203) -/

section
variable {cap timeout : Nat}

/-- The tests after a FIFO_STATUS read, CE high (R193, R194). -/
theorem InOperation.keeps_receiveTest (hs : InOperation (.receive cap timeout) s) (hce : s.ce = true)
    (hcap : decide (Config.rxCapMin ≤ cap) = true) (ht0 : s.work.t0.isSome = true) (fs : Byte) :
    Keeps (receiveTest cap timeout fs s) := by
  have hhigh (v : Bool) (h : some true = some v) : s.ce = v := hce.trans (Option.some.inj h)
  unfold receiveTest
  split
  · split
    case isTrue => exact hs.keeps_yieldStep (by simp [positionOk, receivePosition, hcap, ht0]) hhigh
    case isFalse hto =>
      have hread : InOperation (.receive cap timeout)
          (s.tickRead.setWork { s.work with now := some s.tickReading }) :=
        hs.tickRead.setWork (h1 := tickFits_reading s)
      refine keeps_next (hread.goto.stateInv rfl ?_ hhigh)
      simp [positionOk, receivePosition, hcap, ht0, hto]
  · exact hs.keeps_readRxPlWid hcap hhigh fun _ => Bool.and_eq_true_iff.mpr ⟨hcap, rfl⟩

theorem StateInv.keeps_receive (h : StateInv s) (hp : s.phase = .busy (.receive cap timeout) l) :
    Keeps (exec (.receive cap timeout) s) := by
  obtain ⟨-, hpos, hce⟩ := h.inside _ _ hp
  have hs := h.inOperation hp
  have hhigh (hl : impliedCe (.receive cap timeout) l = some true) : s.ce = true := hce true hl
  simp only [positionOk] at hpos
  simp only [exec, execReceive, State.pos_busy hp]
  cases l with
  | entry =>
    dsimp only
    split
    case isTrue => exact h.keeps_raise _
    case isFalse hcap =>
      have hread : InOperation (.receive cap timeout)
          (s.tickRead.setWork { s.work with t0 := some s.tickReading }) :=
        hs.tickRead.setWork (h0 := tickFits_reading s)
      refine keeps_next (hread.goto.stateInv rfl ?_ nofun)
      simpa [positionOk, receivePosition] using hcap
  | erx =>
    obtain ⟨hcap, ht0⟩ := Bool.and_eq_true_iff.mp hpos
    exact hs.keeps_regRead hcap nofun fun _ => Bool.and_eq_true_iff.mpr ⟨hpos, rfl⟩
  | erw =>
    obtain ⟨hstart, hcfg⟩ := Bool.and_eq_true_iff.mp hpos
    obtain ⟨hcap, -⟩ := Bool.and_eq_true_iff.mp hstart
    exact hs.keeps_writeConfig hcfg hcap nofun hstart
  | erp => exact hs.keeps_drivePin hpos fun _ => Option.some.inj
  | poll =>
    obtain ⟨hcap, -⟩ := Bool.and_eq_true_iff.mp hpos
    exact hs.keeps_regRead hcap hce fun _ => Bool.and_eq_true_iff.mpr ⟨hpos, rfl⟩
  | test =>
    obtain ⟨hstart, hfs⟩ := Bool.and_eq_true_iff.mp hpos
    obtain ⟨hcap, ht0⟩ := Bool.and_eq_true_iff.mp hstart
    exact keeps_need hfs fun fs _ => hs.keeps_receiveTest (hhigh rfl) hcap ht0 fs
  | deadline =>
    obtain ⟨hticks, -⟩ := Bool.and_eq_true_iff.mp hpos
    obtain ⟨hstart, hnow⟩ := Bool.and_eq_true_iff.mp hticks
    obtain ⟨-, ht0⟩ := Bool.and_eq_true_iff.mp hstart
    refine keeps_need ht0 fun t0 _ => keeps_need hnow fun now _ => ?_
    split
    · exact h.keeps_raise _
    · exact hs.keeps_yieldStep hstart hce
  | yld =>
    obtain ⟨hcap, -⟩ := Bool.and_eq_true_iff.mp hpos
    exact h.keeps_awaitHook (hs.popHook.keeps_regRead hcap hce fun _ => Bool.and_eq_true_iff.mpr ⟨hpos, rfl⟩)
  | pay =>
    obtain ⟨hcap, hwidth⟩ := Bool.and_eq_true_iff.mp hpos
    refine keeps_need hwidth fun w hw => ?_
    split
    case isTrue hle =>
      refine hs.keeps_transact (legalFrame_readPayload hle) hcap hce fun rx hrx => ?_
      refine Bool.and_eq_true_iff.mpr ⟨hcap, ?_⟩
      exact payloadHeld_iff.mpr ⟨w, rx, hw, rfl, hle, hrx.trans (rxCount_readPayload w)⟩
    case isFalse => exact keeps_next (h.withFaultMark _)
  | sby =>
    obtain ⟨hcap, hheld⟩ := Bool.and_eq_true_iff.mp hpos
    obtain ⟨w, rx, hw, hrd, hle, hlen⟩ := payloadHeld_iff.mp hheld
    simp only [hrd, need_some]
    have hpipe : (unpackStatus rx s.work).pipe.isSome = true := by simp [unpackStatus, hlen]
    exact hs.setWork.keeps_drivePin (Bool.and_eq_true_iff.mpr ⟨hpos, hpipe⟩) fun _ => Option.some.inj
  | ret =>
    obtain ⟨hall, hpipe⟩ := Bool.and_eq_true_iff.mp hpos
    obtain ⟨-, hheld⟩ := Bool.and_eq_true_iff.mp hall
    obtain ⟨w, rx, hw, hrd, -⟩ := payloadHeld_iff.mp hheld
    simp only [hw, hrd, need_some]
    exact keeps_need hpipe fun _ _ => h.keeps_returnOk _
  | fail => exact h.keeps_raise _
  | _ => cases hpos

end

/-! ## Every instruction -/

theorem StateInv.keeps_exec {i : Instr} (h : StateInv s) (hp : s.phase = .busy i l) : Keeps (exec i s) := by
  cases i with
  | rRegister a5 n => exact h.keeps_command hp rfl
  | wRegister a5 bytes => exact h.keeps_command hp rfl
  | rRxPlWid => exact h.keeps_command hp rfl
  | rRxPayload w => exact h.keeps_command hp rfl
  | wTxPayload payload => exact h.keeps_command hp rfl
  | cmdFlushTx => exact h.keeps_command hp rfl
  | cmdFlushRx => exact h.keeps_command hp rfl
  | cmdNop => exact h.keeps_command hp rfl
  | readReg addr => exact h.keeps_readReg hp
  | writeReg addr value => exact h.keeps_writeReg hp
  | readAddrReg addr len => exact h.keeps_readAddrReg hp
  | writeAddrReg addr len data => exact h.keeps_writeAddrReg hp
  | writeTxPayload len data => exact h.keeps_writeTxPayload hp
  | flushTx => exact h.keeps_flush (.inl rfl) hp
  | flushRx => exact h.keeps_flush (.inr rfl) hp
  | getStatus => exact h.keeps_statusRead (.inl rfl) hp
  | getFifoStatus => exact h.keeps_statusRead (.inr rfl) hp
  | powerUp => exact h.keeps_power (.inl rfl) hp
  | powerDown => exact h.keeps_power (.inr rfl) hp
  | enterReceive => exact h.keeps_activity (.inl rfl) hp
  | enterTransmit => exact h.keeps_activity (.inr rfl) hp
  | enterStandby => exact h.keeps_enterStandby hp
  | send len data => exact h.keeps_send hp
  | receive cap timeout => exact h.keeps_receive hp

end Sys2Proof.Machine
end

section
/-! PROOFS. What every step keeps: the invariant (O50), the configuration (O53), the history's growth by one event
at most (O54); and how a failed transaction ends an operation (O15). -/

namespace Sys2Proof.Machine

open Sys2Proof

/-! ## The invariant -/

/-- Accepting a request puts a well-formed instruction at its entry, no register being read there (R22). -/
theorem StateInv.accepts {s : State} {r : Request} {i : Instr} (h : StateInv s) (hw : i.wf s.par = true) :
    StateInv ((s.record (.request r)).goto i .entry) where
  params := h.params
  memory := h.memory
  atRest hne := absurd rfl (hne i .entry)
  inside j l hj := by
    cases hj
    exact ⟨hw, positionOk_entry i _, by simp [impliedCe_entry]⟩
  frames := FramesLegal.append h.frames nofun
  startTick := h.startTick
  pollTick := h.pollTick

theorem StateInv.stepped {s t : State} (h : StateInv s) (hst : Stepped s t) : StateInv t := by
  cases hst with
  | waits hp ht => exact ht ▸ h
  | accepts r i hp hd hw ht => exact ht ▸ h.accepts hw
  | illegal r opc hp hd ht =>
    have hempty : s.work = Work.empty := h.atRest fun i l hb => by rw [hp] at hb; cases hb
    exact ht ▸ stateInv_of_atRest h.params h.memory (FramesLegal.append h.frames nofun) nofun hempty
  | refuses r ht => exact ht ▸ h.withRefusalMark _
  | rejects opc hp ht => exact ht ▸ h.deliver _
  | runs i l hp he => exact h.keeps_exec hp t he

/-- Settles O50: the host's act and then each case of a step keep the invariant. -/
theorem stepKeepsInvariant : Obligations.StepKeepsInvariant := by
  intro s t h hstep
  obtain ⟨-, s', rfl | rfl, hst⟩ := step_cases hstep
  · exact h.stepped hst
  · exact h.popHost.stepped hst

/-! ## The configuration -/

theorem Action.config_eq {i : Instr} {s t : State} (h : Action i s t) : t.handle = s.handle ∧ t.par = s.par := by
  cases h <;> subst t <;> exact ⟨rfl, rfl⟩

theorem Stepped.config_eq {s t : State} (h : Stepped s t) : t.handle = s.handle ∧ t.par = s.par := by
  cases h with
  | runs i l hp he => exact (action_of_exec he).config_eq
  | _ => subst t; exact ⟨rfl, rfl⟩

/-- Settles O53: no case of a step touches the handle or the parameters. -/
theorem configurationIsFixed : Obligations.ConfigurationIsFixed := by
  intro s t hstep
  obtain ⟨-, s', rfl | rfl, hst⟩ := step_cases hstep <;> exact hst.config_eq

/-! ## One action per step -/

/-- One event at most, and without one neither chip-enable nor the output buffer changes (R12, R37). -/
def OneEventAtMost (s t : State) : Prop :=
  (t.history = s.history ∧ t.ce = s.ce ∧ t.out = s.out) ∨ ∃ e, t.history = s.history ++ [e]

theorem Action.oneEventAtMost {i : Instr} {s t : State} (h : Action i s t) : OneEventAtMost s t := by
  cases h with
  | wait ht => exact .inl (ht ▸ ⟨rfl, rfl, rfl⟩)
  | ended hi ht => exact .inl (ht ▸ ⟨rfl, rfl, rfl⟩)
  | moved hi ht => exact .inl (ht ▸ ⟨rfl, rfl, rfl⟩)
  | fault f work ht => exact .inl (ht ▸ ⟨rfl, rfl, rfl⟩)
  | _ => subst t; exact .inr ⟨_, rfl⟩

theorem Stepped.oneEventAtMost {s t : State} (h : Stepped s t) : OneEventAtMost s t := by
  cases h with
  | waits hp ht => exact .inl (ht ▸ ⟨rfl, rfl, rfl⟩)
  | refuses r ht => exact .inl (ht ▸ ⟨rfl, rfl, rfl⟩)
  | runs i l hp he => exact (action_of_exec he).oneEventAtMost
  | _ => subst t; exact .inr ⟨_, rfl⟩

/-- Settles O54: every case of a step is one action, or none at all. -/
theorem atMostOneActionPerStep : Obligations.AtMostOneActionPerStep := by
  intro s t hstep
  obtain ⟨-, s', rfl | rfl, hst⟩ := step_cases hstep <;> exact hst.oneEventAtMost

/-! ## Bus errors -/

/-- Settles O15: the step after a failed transaction raises BusError, and its response carries no output bytes. -/
theorem busErrorEndsTheOperation : Obligations.BusErrorEndsTheOperation := by
  intro s i hi hn hp
  rw [exec_fail hi hn hp, raise_eq]
  rfl

end Sys2Proof.Machine
end

section
/-! PROOFS. What init leaves (O8, O9), how a step finds its instruction (O10), and the shape of the device oracle's
answers (O14). -/

namespace Sys2Proof.Machine

open Sys2Proof

/-! ## After init -/

/-- With no request an unmarked block in Idle waits (log entry 17). -/
theorem step_idle {s : State} (hu : s.unmarked) (hp : s.phase = .idle) (hh : s.env.host = []) :
    step s = .next s := by
  rw [step_unmarked hu]
  simp [hostStep, hh, blockStep, hp]

/-- Settles O8: every field of the state after init is the one it is built with, and Idle waits. -/
theorem initStateWaitsInIdle : Obligations.InitStateWaitsInIdle := fun h p ce e =>
  have hwait (hh : e.host = []) : step (State.init h p ce e) = .next (State.init h p ce e) :=
    step_idle ⟨rfl, rfl⟩ rfl hh
  ⟨rfl, rfl, rfl, rfl, rfl, rfl, rfl, rfl, rfl, rfl, hwait⟩

/-- Legal parameters are all that init needs for the invariant (R9, R38). -/
theorem stateInv_init (h : Handle) {p : Params} (ce : Bool) (e : Env) (hp : p.wf = true) :
    StateInv (State.init h p ce e) :=
  stateInv_of_atRest hp .nil nofun nofun rfl

/-- Settles O9: the default parameters are legal, and no request and no response is in the empty history. -/
theorem resetMeetsInvariant : Obligations.ResetMeetsInvariant := ⟨stateInv_init _ _ _ rfl, rfl⟩

/-! ## The step and the decoded instruction -/

/-- A call is taken in Idle, whatever the host does after it (R22, R234). -/
theorem step_call {s : State} {r : Request} {rest : List HostAct} (hu : s.unmarked) (hp : s.phase = .idle)
    (hh : s.env.host = .call r :: rest) : step s = accept r s.popHost := by
  rw [step_unmarked hu]
  simp [hostStep, hh, pendingCall, hp]

theorem accept_wf {s : State} {r : Request} {i : Instr} (hd : decodeRequest r = .ok i) (hw : i.wf s.par = true) :
    accept r s = .next ((s.record (.request r)).goto i .entry) := by
  simp [accept, hd, hw]

/-- An idle act of the host is taken off its list, and the block steps. -/
theorem step_pass {s : State} {rest : List HostAct} (hu : s.unmarked) (hh : s.env.host = .pass :: rest) :
    step s = blockStep s.popHost := by
  rw [step_unmarked hu]
  simp [hostStep, hh]

theorem popHost_eq {s : State} {a : HostAct} {rest : List HostAct} (hh : s.env.host = a :: rest) :
    s.popHost = { s with env := s.env.withHost rest } := by
  simp [State.popHost, Env.withHost, hh]

theorem blockStep_busy {s : State} {i : Instr} {l : Label} (hp : s.phase = .busy i l) : blockStep s = exec i s := by
  simp [blockStep, hp]

/-- Settles O10: the accepted request's instruction is placed at its entry, and is the one that blockStep runs. -/
theorem stepRunsDecodedInstruction : Obligations.StepRunsDecodedInstruction := by
  refine ⟨fun s r rest i hu hp hh hd hw => ?_, fun s i l hu hp hh => step_busy hu hp hh,
    fun s i l rest hu hp hh => ?_⟩
  · rw [step_call hu hp hh, popHost_eq hh]
    exact accept_wf hd hw
  · rw [step_pass hu hh, popHost_eq hh]
    exact blockStep_busy hp

/-! ## The device oracle -/

/-- Settles O14: the laws of the oracle; rxCount adds up what each segment requests. -/
theorem busAnswersHaveTheirShape : Obligations.BusAnswersHaveTheirShape := by
  intro e f
  refine ⟨fun rx => busAnswer_length, fun b rest => busAnswer_scripted, fun rest => busAnswer_scripted_err,
    rxCount_nil, fun b t d => ?_, fun n t d => ?_, fun b t d => ?_⟩
  · exact (rxCount_cons _ f).trans (Nat.zero_add _)
  · exact rxCount_cons _ f
  · exact rxCount_cons _ f

end Sys2Proof.Machine
end

section
/-! PROOFS. Chip-enable follows the pin writes (O55). -/

namespace Sys2Proof.Machine

open Sys2Proof

/-- A pin write leaves its level in the latch, and every other step leaves the latch alone (R21). -/
def CeFollowsPin (s t : State) : Prop :=
  (∀ v, t.history = s.history ++ [.pin v] → t.ce = v) ∧ ((∀ v, t.history ≠ s.history ++ [.pin v]) → t.ce = s.ce)

theorem ceFollowsPin_of_pin {s t : State} {v : Bool} (hh : t.history = s.history ++ [.pin v]) (hce : t.ce = v) :
    CeFollowsPin s t := by
  refine ⟨fun u hu => ?_, fun h => absurd hh (h v)⟩
  have : v = u := by simpa [hh] using hu
  exact hce.trans this

theorem ceFollowsPin_of_event {s t : State} {e : Event} (hh : t.history = s.history ++ [e]) (he : ∀ v, e ≠ .pin v)
    (hce : t.ce = s.ce) : CeFollowsPin s t := by
  refine ⟨fun v hv => ?_, fun _ => hce⟩
  have : e = .pin v := by simpa [hh] using hv
  exact absurd this (he v)

theorem ceFollowsPin_of_noEvent {s t : State} (hh : t.history = s.history) (hce : t.ce = s.ce) :
    CeFollowsPin s t := by
  refine ⟨fun v hv => ?_, fun _ => hce⟩
  simp [hh] at hv

theorem Action.ceFollowsPin {i : Instr} {s t : State} (h : Action i s t) : CeFollowsPin s t := by
  cases h with
  | pin level l work ht => exact ht ▸ ceFollowsPin_of_pin rfl rfl
  | wait ht => exact ht ▸ ceFollowsPin_of_noEvent rfl rfl
  | ended hi ht => exact ht ▸ ceFollowsPin_of_noEvent rfl rfl
  | moved hi ht => exact ht ▸ ceFollowsPin_of_noEvent rfl rfl
  | fault f work ht => exact ht ▸ ceFollowsPin_of_noEvent rfl rfl
  | _ => subst t; exact ceFollowsPin_of_event rfl nofun rfl

theorem Stepped.ceFollowsPin {s t : State} (h : Stepped s t) : CeFollowsPin s t := by
  cases h with
  | waits hp ht => exact ht ▸ ceFollowsPin_of_noEvent rfl rfl
  | refuses r ht => exact ht ▸ ceFollowsPin_of_noEvent rfl rfl
  | runs i l hp he => exact (action_of_exec he).ceFollowsPin
  | _ => subst t; exact ceFollowsPin_of_event rfl nofun rfl

/-- Settles O55: of the cases of a step only the pin write touches the latch. -/
theorem chipEnableFollowsPinWrites : Obligations.ChipEnableFollowsPinWrites := by
  intro s t hstep
  obtain ⟨-, s', rfl | rfl, hst⟩ := step_cases hstep <;> exact hst.ceFollowsPin

end Sys2Proof.Machine
end

section
/-! PROOFS. Which model faults a state of the invariant can record (O51): at a position of the pseudocode with its
registers written, an instruction leaves the fault mark alone, but for RECEIVE at the width test (R202). -/

namespace Sys2Proof.Machine

open Sys2Proof

/-! ## Outcomes that leave the fault mark as it is -/

/-- If the outcome is a next state, its fault mark is m. -/
def LeavesMark (m : Option Fault) (o : Out) : Prop := ∀ t, o = .next t → t.faultMark = m

section
variable {m : Option Fault} {i : Instr} {s : State}

@[simp] theorem leavesMark_next {t : State} : LeavesMark m (.next t) ↔ t.faultMark = m := by
  simp [LeavesMark]

@[simp] theorem transacted_faultMark (f : Frame) (l : Label) (work : List Byte → Work) :
    (s.transacted i f l work).faultMark = s.faultMark := by
  unfold State.transacted
  split <;> rfl

@[simp] theorem leavesMark_transact {f : Frame} {l : Label} {keep : List Byte → Work → Work} :
    LeavesMark m (transact i f l keep s) ↔ s.faultMark = m := by
  simp [transact_eq]

@[simp] theorem leavesMark_drivePin {level : Bool} {l : Label} :
    LeavesMark m (drivePin i level l s) ↔ s.faultMark = m := leavesMark_next

@[simp] theorem leavesMark_yieldStep : LeavesMark m (yieldStep i s) ↔ s.faultMark = m := leavesMark_next

@[simp] theorem leavesMark_raise {e : Result} : LeavesMark m (raise e s) ↔ s.faultMark = m := leavesMark_next

@[simp] theorem leavesMark_returnOk {r : Response} : LeavesMark m (returnOk r s) ↔ s.faultMark = m := leavesMark_next

@[simp] theorem leavesMark_endCommand : LeavesMark m (endCommand s) ↔ s.faultMark = m := leavesMark_next

/-- Reading a written register records no fault (R24). -/
theorem leavesMark_need {α : Type} {r : Option α} {k : α → Out} (hr : r.isSome = true)
    (h : ∀ v, r = some v → LeavesMark m (k v)) : LeavesMark m (need r s k) := by
  obtain ⟨v, rfl⟩ := Option.isSome_iff_exists.mp hr
  exact h v rfl

@[simp] theorem leavesMark_ite {c : Prop} [Decidable c] {o o' : Out} :
    LeavesMark m (if c then o else o') ↔ (c → LeavesMark m o) ∧ (¬c → LeavesMark m o') := by
  split <;> simp [*]

theorem leavesMark_awaitHook {resume : State → Out} (hm : s.faultMark = m) (h : LeavesMark m (resume s.popHook)) :
    LeavesMark m (awaitHook s resume) := by
  unfold awaitHook
  split
  · exact h
  · exact leavesMark_next.mpr hm

end

/-! ## One step of an instruction -/

/-- RECEIVE stands at its width test with a width above 32 (R202). -/
def WidthTooLarge (s : State) : Prop :=
  ∃ cap timeout w, s.phase = .busy (.receive cap timeout) .pay ∧ s.work.w = some w ∧ 32 < w.toNat

section
variable {s : State} {l : Label} {i : Instr}

theorem writeConfig_leavesMark {change : Byte → Byte} (hcfg : s.work.cfg.isSome = true) :
    LeavesMark s.faultMark (writeConfig i change l s) :=
  leavesMark_need hcfg fun _ _ => leavesMark_transact.mpr rfl

theorem exec_command_leavesMark (hp : s.phase = .busy i l) (hi : i.isHostOp = false)
    (hpos : positionOk i l s.work = true) : LeavesMark s.faultMark (exec i s) := by
  obtain rfl | hend : l = .entry ∨ (l = .fail ∨ l = .ret) := command_positions hi hpos
  · cases i
    case rRegister | wRegister | rRxPlWid | rRxPayload | wTxPayload | cmdFlushTx | cmdFlushRx | cmdNop =>
      simp [exec, execRRegister, execWRegister, execRRxPlWid, execRRxPayload, execWTxPayload, execCmdFlushTx,
        execCmdFlushRx, execCmdNop, readRxPlWid, State.pos_busy hp]
    all_goals cases hi
  · rw [exec_command_end hi (hend.imp (· ▸ hp) (· ▸ hp))]
    exact leavesMark_endCommand.mpr rfl

theorem exec_fail_leavesMark (hp : s.phase = .busy i .fail) (hi : i.isHostOp = true)
    (hpos : positionOk i .fail s.work = true) : LeavesMark s.faultMark (exec i s) := by
  have hn : i ≠ .enterStandby := by
    rintro rfl
    cases hpos
  rw [exec_fail hi hn hp]
  exact leavesMark_raise.mpr rfl

theorem sendLoop_leavesMark {len off : Nat} {data : List Byte} : LeavesMark s.faultMark (sendLoop len data off s) := by
  simp [sendLoop]

/-- With a chunk in flight the registers of the next one are written (R163, R167). -/
theorem sendNext_leavesMark {len : Nat} {data : List Byte} (hc : chunkInFlight len s.work = true) :
    LeavesMark s.faultMark (sendNext len data s) := by
  obtain ⟨off, n, hoff, hn, -⟩ := chunkInFlight_iff.mp hc
  simp only [sendNext, hoff, hn, need_some]
  exact sendLoop_leavesMark

theorem sendTest_leavesMark {len polls : Nat} {data : List Byte} {st : Byte} (hc : chunkInFlight len s.work = true) :
    LeavesMark s.faultMark (sendTest len data st polls s) := by
  simp [sendTest, clearIrq, clearTxDs, regWrite, sendNext_leavesMark hc]

theorem execSend_leavesMark {len : Nat} {data : List Byte} (hl : s.pos = l)
    (hpos : sendPosition len l s.work = true) : LeavesMark s.faultMark (execSend len data s) := by
  simp only [execSend, hl]
  cases l with
  | entry | poll | flush => exact leavesMark_transact.mpr rfl
  | etx => exact leavesMark_need hpos fun _ _ => by simp [readConfig, regRead]
  | etw => exact writeConfig_leavesMark hpos
  | etp | standby => exact leavesMark_drivePin.mpr rfl
  | chunk => exact sendLoop_leavesMark
  | test =>
    simp only [sendPosition, Bool.and_eq_true] at hpos
    obtain ⟨⟨hc, hst⟩, hpolls⟩ := hpos
    exact leavesMark_need hst fun _ _ => leavesMark_need hpolls fun _ _ => sendTest_leavesMark hc
  | ack => exact sendNext_leavesMark hpos
  | yld => exact leavesMark_awaitHook rfl (leavesMark_transact.mpr rfl)
  | timeout | fail => exact leavesMark_raise.mpr rfl
  | ret => exact leavesMark_returnOk.mpr rfl
  | _ => cases hpos

theorem receiveTest_leavesMark {cap timeout : Nat} {fs : Byte} :
    LeavesMark s.faultMark (receiveTest cap timeout fs s) := by
  simp [receiveTest, readRxPlWid]

theorem execReceive_leavesMark {cap timeout : Nat} (hl : s.pos = l) (hpos : receivePosition cap timeout l s.work = true)
    (hw : l = .pay → ∀ w, s.work.w = some w → w.toNat ≤ Config.maxPayload) :
    LeavesMark s.faultMark (execReceive cap timeout s) := by
  simp only [execReceive, hl]
  cases l with
  | entry => simp
  | erx | poll => exact leavesMark_transact.mpr rfl
  | erw => exact writeConfig_leavesMark (Bool.and_eq_true_iff.mp hpos).2
  | erp => exact leavesMark_drivePin.mpr rfl
  | test => exact leavesMark_need (Bool.and_eq_true_iff.mp hpos).2 fun _ _ => receiveTest_leavesMark
  | deadline =>
    simp only [receivePosition, Bool.and_eq_true] at hpos
    obtain ⟨⟨⟨-, ht0⟩, hnow⟩, -⟩ := hpos
    exact leavesMark_need ht0 fun _ _ => leavesMark_need hnow fun _ _ => by simp
  | yld => exact leavesMark_awaitHook rfl (leavesMark_transact.mpr rfl)
  | pay =>
    refine leavesMark_need (Bool.and_eq_true_iff.mp hpos).2 fun w hwidth => ?_
    rw [if_pos (hw rfl w hwidth)]
    exact leavesMark_transact.mpr rfl
  | sby =>
    obtain ⟨w, rx, -, hrd, -⟩ := payloadHeld_iff.mp (Bool.and_eq_true_iff.mp hpos).2
    simp [hrd]
  | ret =>
    simp only [receivePosition, Bool.and_eq_true] at hpos
    obtain ⟨⟨-, hheld⟩, hpipe⟩ := hpos
    obtain ⟨w, rx, hwidth, hrd, -⟩ := payloadHeld_iff.mp hheld
    simp only [hwidth, hrd, need_some]
    exact leavesMark_need hpipe fun _ _ => leavesMark_returnOk.mpr rfl
  | fail => exact leavesMark_raise.mpr rfl
  | _ => cases hpos

/-- At a position of its pseudocode an instruction records no fault but the one of the width test (R24, R202). -/
theorem exec_leavesMark (hp : s.phase = .busy i l) (hpos : positionOk i l s.work = true) (hw : ¬WidthTooLarge s) :
    LeavesMark s.faultMark (exec i s) := by
  have hl : s.pos = l := State.pos_busy hp
  cases i
  case rRegister | wRegister | rRxPlWid | rRxPayload | wTxPayload | cmdFlushTx | cmdFlushRx | cmdNop =>
    exact exec_command_leavesMark hp rfl hpos
  case readReg | readAddrReg | getStatus | getFifoStatus =>
    obtain rfl | rfl | ⟨rfl, hresult⟩ := simplePosition_cases hpos
    · simp [exec, execReadReg, execReadAddrReg, execGetStatus, execGetFifoStatus, hl, regRead, readStatus,
        readFifoStatus]
    · exact exec_fail_leavesMark hp rfl hpos
    · simp only [exec, execReadReg, execReadAddrReg, execGetStatus, execGetFifoStatus, hl]
      exact leavesMark_need hresult fun _ _ => leavesMark_returnOk.mpr rfl
  case writeReg | writeAddrReg | writeTxPayload | flushTx | flushRx =>
    obtain rfl | rfl | ⟨rfl, -⟩ := simplePosition_cases hpos
    · simp [exec, execWriteReg, execWriteAddrReg, execWriteTxPayload, execFlushTx, execFlushRx, hl, regWrite]
    · exact exec_fail_leavesMark hp rfl hpos
    · simp [exec, execWriteReg, execWriteAddrReg, execWriteTxPayload, execFlushTx, execFlushRx, hl]
  case powerUp | powerDown | enterReceive | enterTransmit =>
    simp only [exec, execPowerUp, execPowerDown, execEnterReceive, execEnterTransmit, hl]
    obtain rfl | rfl | rfl | ⟨rfl, hcfg⟩ | ⟨rfl, hpin⟩ := transitionPosition_cases hpos
    · exact leavesMark_transact.mpr rfl
    · exact leavesMark_raise.mpr rfl
    · exact leavesMark_returnOk.mpr rfl
    · exact writeConfig_leavesMark hcfg
    · -- POWER_UP and POWER_DOWN have no pin write: there `hpin` is false.
      simp at hpin ⊢
  case enterStandby =>
    simp only [exec, execEnterStandby, hl]
    cases l with
    | entry => exact leavesMark_drivePin.mpr rfl
    | ret => exact leavesMark_returnOk.mpr rfl
    | _ => cases hpos
  case send => exact execSend_leavesMark hl hpos
  case receive cap timeout =>
    refine execReceive_leavesMark hl hpos fun hpay w hwidth => ?_
    subst hpay
    exact Nat.le_of_not_lt fun hgt => hw ⟨cap, timeout, w, hp, hwidth, hgt⟩

end

/-! ## One step of the machine -/

/-- At a width above 32 RECEIVE records RxWidthInvalid (R202). -/
theorem exec_widthTooLarge {s : State} {i : Instr} {l : Label} (hp : s.phase = .busy i l) (hw : WidthTooLarge s) :
    exec i s = recordFault .rxWidthInvalid s := by
  obtain ⟨cap, timeout, w, hpay, hwidth, hgt⟩ := hw
  rw [hp] at hpay
  cases hpay
  simp [exec, execReceive, State.pos_busy hp, hwidth, Config.maxPayload, Nat.not_le_of_lt hgt]

theorem Stepped.fault_eq {s t : State} {f : Fault} (hst : Stepped s t) (h : StateInv s) (hm : s.faultMark = none)
    (hf : t.faultMark = some f) : f = .rxWidthInvalid ∧ WidthTooLarge s := by
  cases hst with
  | runs i l hp he =>
    obtain ⟨-, hpos, -⟩ := h.inside i l hp
    by_cases hw : WidthTooLarge s
    case pos =>
      rw [exec_widthTooLarge hp hw] at he
      cases he
      have hfirst : Fault.rxWidthInvalid = f := by simpa [hm] using hf
      exact ⟨hfirst.symm, hw⟩
    case neg =>
      have hkept : t.faultMark = s.faultMark := exec_leavesMark hp hpos hw t he
      nomatch (hkept.trans hm).symm.trans hf
  | _ => subst t; nomatch hm.symm.trans hf

/-- Settles O51: only the instruction in progress can record a fault, and the invariant leaves it the width test. -/
theorem onlyWidthFaultsAreRaised : Obligations.OnlyWidthFaultsAreRaised := by
  intro s t f h hstep hf
  obtain ⟨⟨hm, -⟩, s', rfl | rfl, hst⟩ := step_cases hstep
  · exact hst.fault_eq h hm hf
  · exact hst.fault_eq h.popHost hm hf

end Sys2Proof.Machine
end

section
/-! PROOFS. The host output buffer: what a read returns after a run of bytes is written (O16), and that only a
response with data changes the buffer (O56). -/

namespace Sys2Proof.Machine

open Sys2Proof

/-! ## Reading back a run of bytes -/

theorem Memory.writeBytes_cons (m : Memory) (a : Nat) (b : Byte) (bs : List Byte) :
    m.writeBytes a (b :: bs) = (m.write a b).writeBytes (a + 1) bs := rfl

/-- Settles O16, by induction on the bytes: an index read is the first one, or lies in the run that follows it, or
lies outside. -/
theorem outputBytesLandAtTheStart : Obligations.OutputBytesLandAtTheStart := by
  intro m a bytes i
  induction bytes generalizing m a with
  | nil =>
    have hout : ¬(a ≤ i ∧ i < a + ([] : List Byte).length) := by simp
    rw [Memory.writeBytes_nil, if_neg hout]
  | cons b bs ih =>
    rw [Memory.writeBytes_cons, ih, Memory.read_write, List.length_cons]
    obtain rfl | hne := eq_or_ne i a
    · simp
    · rw [if_neg hne]
      by_cases hin : a + 1 ≤ i ∧ i < a + 1 + bs.length
      · have hsub : i - a = i - (a + 1) + 1 := by omega
        rw [if_pos hin, if_pos (by omega), hsub, List.getElem?_cons_succ]
      · rw [if_neg hin, if_neg (by omega)]

/-! ## The buffer changes only with a response -/

/-- The output buffer stays, or the event is a response whose data now stands at its start (R73). -/
def OutFollowsResponse (s t : State) : Prop :=
  t.out = s.out ∨ ∃ r d, t.history = s.history ++ [.response r] ∧ r.data = some d ∧ t.out = s.out.writeBytes 0 d

/-- A delivered response without data writes nothing, one with data writes it at index 0. -/
theorem State.deliver_outFollowsResponse (s : State) (r : Response) : OutFollowsResponse s (s.deliver r) := by
  cases hd : r.data with
  | none => exact .inl (by simp [hd])
  | some d => exact .inr ⟨r, d, rfl, hd, by simp [hd]⟩

theorem Action.outFollowsResponse {i : Instr} {s t : State} (h : Action i s t) : OutFollowsResponse s t := by
  cases h with
  | response r hi ht => exact ht ▸ s.deliver_outFollowsResponse r
  | _ => subst t; exact .inl rfl

theorem Stepped.outFollowsResponse {s t : State} (h : Stepped s t) : OutFollowsResponse s t := by
  cases h with
  | rejects opc hp ht => exact ht ▸ s.deliver_outFollowsResponse _
  | runs i l hp he => exact (action_of_exec he).outFollowsResponse
  | _ => subst t; exact .inl rfl

/-- Settles O56: of the cases of a step only the delivery of a response touches the output buffer. -/
theorem outputBufferFollowsResponses : Obligations.OutputBufferFollowsResponses := by
  intro s t hstep
  obtain ⟨-, s', rfl | rfl, hst⟩ := step_cases hstep <;> exact hst.outFollowsResponse

end Sys2Proof.Machine
end

section
/-! PROOFS. The codes of both levels: decoding the command byte (O2, O3), the frames of the bus commands (O4, O5, O6)
and the operation codes of the requests (O1, O7). -/

namespace Sys2Proof

/-! ## Every instruction's code -/

/-- Settles O5: the round trip of each constructor, put together. -/
theorem decodeInvertsEncode : Obligations.DecodeInvertsEncode := by
  intro p i
  cases i with
  | rRegister a5 n => exact Laws.RoundTrip.rRegister a5 n p
  | wRegister a5 bytes => exact Laws.RoundTrip.wRegister a5 bytes p
  | rRxPlWid => exact Laws.RoundTrip.rRxPlWid p
  | rRxPayload w => exact Laws.RoundTrip.rRxPayload w p
  | wTxPayload payload => exact Laws.RoundTrip.wTxPayload payload p
  | cmdFlushTx => exact Laws.RoundTrip.cmdFlushTx p
  | cmdFlushRx => exact Laws.RoundTrip.cmdFlushRx p
  | cmdNop => exact Laws.RoundTrip.cmdNop p
  | readReg addr => exact Laws.RoundTrip.readReg addr p
  | writeReg addr value => exact Laws.RoundTrip.writeReg addr value p
  | readAddrReg addr len => exact Laws.RoundTrip.readAddrReg addr len p
  | writeAddrReg addr len data => exact Laws.RoundTrip.writeAddrReg addr len data p
  | writeTxPayload len data => exact Laws.RoundTrip.writeTxPayload len data p
  | flushTx => exact Laws.RoundTrip.flushTx p
  | flushRx => exact Laws.RoundTrip.flushRx p
  | getStatus => exact Laws.RoundTrip.getStatus p
  | getFifoStatus => exact Laws.RoundTrip.getFifoStatus p
  | powerUp => exact Laws.RoundTrip.powerUp p
  | powerDown => exact Laws.RoundTrip.powerDown p
  | enterReceive => exact Laws.RoundTrip.enterReceive p
  | enterTransmit => exact Laws.RoundTrip.enterTransmit p
  | enterStandby => exact Laws.RoundTrip.enterStandby p
  | send len data => exact Laws.RoundTrip.send len data p
  | receive cap timeout => exact Laws.RoundTrip.receive cap timeout p

/-- Settles O1: each code written out is the encoding of the instruction it stands for. -/
theorem writtenOutCodesDecode : Obligations.WrittenOutCodesDecode := by
  have hcode (i : Instr) (hw : i.wf Params.default = true) : decode (encode i) = .ok i :=
    decodeInvertsEncode Params.default i hw
  refine ⟨?_, ?_, ?_, ?_, ?_, ?_, ?_⟩
  · exact hcode (.rRegister 0b00111#5 1) rfl
  · exact hcode (.wRegister 0b01010#5 [1#8, 2#8, 3#8, 4#8, 5#8]) rfl
  · exact hcode (.rRxPayload 3#8) rfl
  · exact hcode .cmdFlushTx rfl
  · exact hcode (.writeReg 0x07#8 0x70#8) rfl
  · exact hcode .enterStandby rfl
  · exact hcode (.receive 32 50) (by decide)

/-! ## The command byte -/

/-- The address field is the low five bits of the address (R84). -/
theorem setWidth_regField (addr : Byte) : (regField addr).setWidth 8 = addr &&& 0x1F#8 := by
  revert addr; decide

/-- Settles O2: the command byte is built from the address field, which is the masked address. -/
theorem registerCommandByteFormula : Obligations.RegisterCommandByteFormula := by
  intro addr
  have hcommand (base : Byte) : regCommand base (regField addr) = base ||| (addr &&& 0x1F#8) := by
    rw [regCommand, setWidth_regField]
  have halias : regField addr = regField (addr &&& 0x1F#8) := by
    simp [regField, BitVec.and_assoc]
  exact ⟨setWidth_regField addr, hcommand _, hcommand _, halias⟩

/-- A row with the full mask covers its pattern alone. -/
theorem covers_fullMask {c pattern : Byte} {op : CmdOp} :
    CmdRow.covers ⟨0xFF#8, pattern, op⟩ c = true ↔ c = pattern := by
  have hfull : c &&& 0xFF#8 = c := BitVec.and_allOnes
  simp [CmdRow.covers, hfull]

/-- The first row is tested first (R86). -/
theorem find?_covers_cons (c : Byte) (r : CmdRow) (rows : List CmdRow) :
    ((r :: rows).find? fun r => r.covers c).map CmdRow.op =
      if r.covers c = true then some r.op else (rows.find? fun r => r.covers c).map CmdRow.op := by
  by_cases h : r.covers c = true <;> simp [h]

/-- Two rows whose patterns differ on the bits that both masks test cover no byte in common. -/
theorem covers_disjoint {r q : CmdRow} (h : r.pattern &&& q.mask ≠ q.pattern &&& r.mask) (c : Byte) :
    ¬(r.covers c = true ∧ q.covers c = true) := by
  rintro ⟨hr, hq⟩
  have hr : c &&& r.mask = r.pattern := beq_iff_eq.mp hr
  have hq : c &&& q.mask = q.pattern := beq_iff_eq.mp hq
  apply h
  calc r.pattern &&& q.mask
      = c &&& r.mask &&& q.mask := by rw [hr]
    _ = c &&& q.mask &&& r.mask := by rw [BitVec.and_assoc, BitVec.and_comm r.mask, BitVec.and_assoc]
    _ = q.pattern &&& r.mask := by rw [hq]

/-- Settles O3: the table is searched in the order of R86, and any two patterns differ on a bit both rows test. -/
theorem commandByteTests : Obligations.CommandByteTests := by
  have hrows : cmdTable.Pairwise fun r q => r.pattern &&& q.mask ≠ q.pattern &&& r.mask := by decide
  refine ⟨fun c => ?_, fun c => rfl, hrows.imp fun h c => covers_disjoint h c⟩
  have hmask (base : Byte) (op : CmdOp) : CmdRow.covers ⟨0xE0#8, base, op⟩ c = true ↔ c &&& 0xE0#8 = base :=
    beq_iff_eq
  simp only [decodeCommand, cmdTable, find?_covers_cons, hmask, covers_fullMask, List.find?_nil, Option.map_none]

/-! ## Frames -/

/-- The command byte of each command, a register command with its address field (R81–R84). -/
def CmdOp.byte (op : CmdOp) (a5 : BitVec 5) : Byte :=
  match op with
  | .rRegister => regCommand 0x00#8 a5
  | .wRegister => regCommand 0x20#8 a5
  | .rRxPlWid => 0x60#8
  | .rRxPayload => 0x61#8
  | .wTxPayload => 0xA0#8
  | .flushTx => 0xE1#8
  | .flushRx => 0xE2#8
  | .nop => 0xFF#8

/-- A byte is its top three bits, the base, with its address field (R80, R84). -/
theorem eq_regCommand_of_base {c base : Byte} (h : c &&& 0xE0#8 = base) : c = regCommand base (cmdAddr c) := by
  subst h
  revert c
  decide

/-- A byte that decodes to a command is that command's byte (R86). -/
theorem byte_of_decodeCommand {c : Byte} {op : CmdOp} (h : decodeCommand c = some op) : c = op.byte (cmdAddr c) := by
  obtain ⟨hverdict, -, -⟩ := commandByteTests
  have htests := h.symm.trans (hverdict c)
  split_ifs at htests with hr hw
  case pos =>
    cases htests
    exact eq_regCommand_of_base hr
  case pos =>
    cases htests
    exact eq_regCommand_of_base hw
  all_goals
    cases htests
    assumption

/-- f is the frame of i, and i is well formed whatever the parameters. -/
def IsFrameOf (f : Frame) (i : Instr) : Prop := encode i = .frame f ∧ ∀ p : Params, i.wf p = true

theorem decodeBare_isFrameOf {c : Byte} {i : Instr} (h : decodeBare c = .ok i) : IsFrameOf [wr [c]] i := by
  cases hop : decodeCommand c with
  | none => simp [decodeBare, hop] at h
  | some op =>
    rw [byte_of_decodeCommand hop]
    cases op <;> simp only [decodeBare, hop] at h
    case wTxPayload | flushTx | flushRx | nop =>
      cases h
      exact ⟨rfl, fun _ => rfl⟩
    all_goals cases h

theorem decodeRead_isFrameOf {c : Byte} {n : Nat} {i : Instr} (h : decodeRead c n = .ok i) :
    IsFrameOf [wr [c], rd n] i := by
  cases hop : decodeCommand c with
  | none => simp [decodeRead, hop] at h
  | some op =>
    rw [byte_of_decodeCommand hop]
    cases op <;> simp only [decodeRead, hop] at h
    case rRegister =>
      split at h <;> cases h
      case isTrue hn => exact ⟨rfl, fun _ => hn⟩
    case rRxPlWid =>
      split at h <;> cases h
      case isTrue hn => exact ⟨hn ▸ rfl, fun _ => rfl⟩
    all_goals cases h

theorem decodeWrite_isFrameOf {c : Byte} {d : List Byte} {i : Instr} (h : decodeWrite c d = .ok i) :
    IsFrameOf [wr [c], wr d] i := by
  cases hop : decodeCommand c with
  | none => simp [decodeWrite, hop] at h
  | some op =>
    rw [byte_of_decodeCommand hop]
    cases op <;> simp only [decodeWrite, hop] at h
    case wRegister =>
      split at h <;> cases h
      case isTrue hd => exact ⟨rfl, fun _ => hd⟩
    case wTxPayload =>
      split at h <;> cases h
      case isTrue hd =>
        obtain ⟨hpos, hmax⟩ := hd
        refine ⟨?_, fun _ => decide_eq_true hmax⟩
        cases d with
        | nil => simp at hpos
        | cons b bs => rfl
    all_goals cases h

/-- The width of a payload fits the byte that holds it (R68). -/
theorem payloadWidth_toNat {n : Nat} (hn : n ≤ Config.maxPayload) : (BitVec.ofNat 8 n).toNat = n := by
  have hn : n ≤ 32 := hn
  rw [BitVec.toNat_ofNat]
  omega

/-- An exchange is an R_RX_PAYLOAD of n bytes, whose frame has no data segment for n = 0 (R85). -/
theorem decodeExchange_isFrameOf {c : Byte} {n : Nat} {i : Instr} (h : decodeExchange c n = .ok i) :
    IsFrameOf (if n = 0 then [xch [c]] else [xch [c], rd n]) i := by
  cases hop : decodeCommand c with
  | none => simp [decodeExchange, hop] at h
  | some op =>
    rw [byte_of_decodeCommand hop]
    cases op <;> simp only [decodeExchange, hop] at h
    case rRxPayload =>
      split at h <;> cases h
      case isTrue hn =>
        have hwidth := payloadWidth_toNat hn
        have hzero : BitVec.ofNat 8 n = 0#8 ↔ n = 0 := by simp [← BitVec.toNat_inj, hwidth]
        refine ⟨?_, fun _ => decide_eq_true (hwidth.le.trans hn)⟩
        simp [encode, frameReadPayload, hzero, hwidth, CmdOp.byte]
    all_goals cases h

/-- A segment of the given kind with no toggle and no delay (R13). -/
def Seg.plain (k : SegKind) : Seg := { kind := k }

theorem Seg.eq_plain {g : Seg} (h : g.isPlain = true) : g = Seg.plain g.kind := by
  obtain ⟨kind, toggle, delay⟩ := g
  simp_all [Seg.isPlain, Seg.plain]

/-- A frame without toggles and delays is given by its segments' kinds. -/
theorem frame_eq_plain {f : Frame} (h : f.all Seg.isPlain = true) : f = (f.map Seg.kind).map Seg.plain := by
  calc f = f.map id := (List.map_id f).symm
    _ = f.map (Seg.plain ∘ Seg.kind) := List.map_congr_left fun g hg => Seg.eq_plain (List.all_eq_true.mp h g hg)
    _ = (f.map Seg.kind).map Seg.plain := List.map_map.symm

theorem decodeKinds_isFrameOf {ks : List SegKind} {i : Instr} (h : decodeKinds ks = .ok i) :
    IsFrameOf (ks.map Seg.plain) i := by
  unfold decodeKinds at h
  split at h
  · exact decodeBare_isFrameOf h
  · exact decodeRead_isFrameOf h
  · exact decodeWrite_isFrameOf h
  · exact decodeExchange_isFrameOf h
  · split at h
    case isTrue => cases h
    case isFalse hn =>
      have hdata := decodeExchange_isFrameOf h
      rwa [if_neg hn] at hdata
  · cases h

/-- Settles O6: in each shape of R85 the command byte and the data are those of the instruction's own frame. -/
theorem frameHasOneMeaning : Obligations.FrameHasOneMeaning := by
  intro f i p h
  unfold decodeFrame at h
  split at h
  case isTrue hplain =>
    obtain ⟨hcode, hwf⟩ := decodeKinds_isFrameOf h
    rw [← frame_eq_plain hplain] at hcode
    exact ⟨hcode, hwf p⟩
  case isFalse => cases h

/-- Settles O4: the frames are the encoder's; a payload, read or written, has a data segment unless it is empty. -/
theorem frameShapes : Obligations.FrameShapes := by
  refine ⟨fun a5 n => rfl, fun a5 b => rfl, fun p hp => ?_, rfl, rfl, fun w hw => ?_, rfl, rfl, rfl⟩
  · obtain ⟨b, bs, rfl⟩ := List.exists_cons_of_ne_nil hp
    rfl
  · rw [encode, frameReadPayload, if_neg hw]

/-! ## Requests -/

/-- The sixteen operation codes of R89. -/
def assignedOpcodes : List Byte :=
  [0x01#8, 0x02#8, 0x03#8, 0x04#8, 0x05#8, 0x06#8, 0x07#8, 0x08#8, 0x09#8, 0x10#8, 0x11#8, 0x12#8, 0x13#8, 0x14#8,
    0x20#8, 0x21#8]

theorem decodeRequest_unassigned {r : Request} (h : r.opc ∉ assignedOpcodes) :
    decodeRequest r = .error (.unassignedOpcode r.opc) := by
  unfold decodeRequest
  split
  case h_17 => rfl
  all_goals
    rename_i hopc
    rw [hopc] at h
    exact absurd (by decide) h

/-- The three operations that carry data reject a request of another length than `len` (R90). -/
theorem decodeRequest_malformed {r : Request} (hopc : r.opc ∈ [0x04#8, 0x05#8, 0x20#8])
    (hlen : r.data.length ≠ r.len) : decodeRequest r = .error .malformedRequest := by
  simp only [List.mem_cons, List.not_mem_nil, or_false] at hopc
  obtain h | h | h := hopc <;> simp [decodeRequest, h, checkData, hlen]

/-- Settles O7: the decoder branches on the operation code, and checks the length of data where there are any. -/
theorem requestsDecodeByOpcode : Obligations.RequestsDecodeByOpcode := by
  intro r
  refine ⟨?_, ?_, ?_, ?writeAddrReg, ?writeTxPayload, ?_, ?_, ?_, ?_, ?_, ?_, ?_, ?_, ?_, ?send, ?_,
    decodeRequest_malformed, decodeRequest_unassigned⟩
  case writeAddrReg | writeTxPayload | send =>
    intro hopc hlen
    simp [decodeRequest, hopc, checkData, hlen]
  all_goals
    intro hopc
    simp only [decodeRequest, hopc]

end Sys2Proof
end

section
/-! PROOFS. The codes at work: the bus commands run as their one transaction (O18, O20), every frame issued is legal
(O57), an unassigned operation code is answered InvalidArgument (O11), and the result codes (O17). -/

namespace Sys2Proof.Machine

open Sys2Proof

/-! ## Bus commands -/

/-- After its transaction, whatever its answer, a bus command goes back to Idle (log entry 9). -/
theorem exec_command_returns {s : State} {i : Instr} {l : Label} (hi : i.isHostOp = false) (hl : l = .ret ∨ l = .fail)
    (hp : s.phase = .busy i l) : exec i s = .next { s with phase := .idle, work := {} } := by
  obtain rfl | rfl := hl
  · exact exec_command_end hi (.inr hp)
  · exact exec_command_end hi (.inl hp)

/-- Settles O18: at entry each is a transaction of its frame. -/
theorem registerCommandsIssueTheirFrame : Obligations.RegisterCommandsIssueTheirFrame := by
  intro s a5 n b
  refine ⟨fun hp => ?_, fun hp => ?_, fun l hl => ⟨exec_command_returns rfl hl, exec_command_returns rfl hl⟩⟩
  · simp only [exec, execRRegister, State.pos_busy hp, transact_eq]
    rfl
  · simp only [exec, execWRegister, State.pos_busy hp, transact_eq]
    rfl

/-- Settles O20: at entry a flush is a transaction of its command byte, and NOP moves on. -/
theorem bareCommandsAndNop : Obligations.BareCommandsAndNop := by
  intro s
  refine ⟨fun hp => ?_, fun hp => ?_, fun hp => ?_, fun i l hi hl hp => ?_⟩
  · simp only [exec, execCmdFlushTx, State.pos_busy hp, transact_eq]
    rfl
  · simp only [exec, execCmdFlushRx, State.pos_busy hp, transact_eq]
    rfl
  · simp only [exec, execCmdNop, State.pos_busy hp]
    rfl
  · have hcommand : i.isHostOp = false := by obtain rfl | rfl | rfl := hi <;> rfl
    exact exec_command_returns hcommand hl hp

/-! ## Frames issued -/

/-- What a legal start says of the command byte and of every segment (R13, R87, R119). -/
theorem startsLegally_iff {f : Frame} :
    startsLegally f = true ↔
      ∃ c op, commandOf f = some c ∧ decodeCommand c = some op ∧ op ≠ .nop ∧
        ∀ g, g ∈ f → g.toggle = false ∧ g.delay = 0 := by
  cases hc : commandOf f with
  | none => simp [startsLegally, hc]
  | some c =>
    cases hop : decodeCommand c with
    | none => simp [startsLegally, hc, hop]
    | some op => simp [startsLegally, hc, hop, Seg.isPlain, and_comm]

theorem Action.startsLegally {i : Instr} {s t : State} {f : Frame} {a : BusAnswer} (h : Action i s t)
    (hh : t.history = s.history ++ [.bus f a]) : startsLegally f = true := by
  cases h with
  | bus g b l work env hl ht hhost h =>
    subst h
    have hsame : g = f ∧ b = a := by simpa using hh
    exact hsame.1 ▸ hl
  | _ => subst t; simp at hh

theorem Stepped.startsLegally {s t : State} {f : Frame} {a : BusAnswer} (h : Stepped s t)
    (hh : t.history = s.history ++ [.bus f a]) : startsLegally f = true := by
  cases h with
  | runs i l hp he => exact (action_of_exec he).startsLegally hh
  | _ => subst t; simp at hh

/-- Settles O57: only an instruction's transaction issues a frame, and each one starts legally. -/
theorem issuedFramesAreLegal : Obligations.IssuedFramesAreLegal := by
  intro s t f a hstep hh
  obtain ⟨-, s', rfl | rfl, hst⟩ := step_cases hstep <;> exact startsLegally_iff.mp (hst.startsLegally hh)

/-! ## Unassigned operation codes -/

/-- An unassigned operation code is accepted, to be answered (R92; log entry 18). -/
theorem accept_unassigned {s : State} {r : Request} (h : r.opc ∉ assignedOpcodes) :
    accept r s = .next { s.record (.request r) with phase := .illegal r.opc } := by
  simp [accept, decodeRequest_unassigned h]

/-- Outside Idle a host that keeps the protocol leaves the block to itself (R234). -/
theorem step_of_keepsProtocol {s : State} (hu : s.unmarked) (hp : s.phase ≠ .idle)
    (hh : keepsProtocol s.env.host = true) : step s = blockStep s := by
  rw [step_unmarked hu]
  cases hhost : s.env.host with
  | nil => simp [hostStep, hhost]
  | cons act rest =>
    cases act with
    | call r => cases hphase : s.phase <;> simp_all [hostStep, pendingCall]
    | intrude r => simp [keepsProtocol, hhost] at hh
    | pass => simp [keepsProtocol, hhost] at hh

/-- The answer to an unassigned operation code (R92). -/
theorem step_illegal {s : State} {opc : Byte} (hu : s.unmarked) (hp : s.phase = .illegal opc)
    (hh : keepsProtocol s.env.host = true) : step s = .next (s.responded { result := .invalidArgument }) := by
  have hbusy : s.phase ≠ .idle := by simp [hp]
  rw [step_of_keepsProtocol hu hbusy hh, blockStep, hp]
  exact raise_eq _ s

/-- Settles O11: the first step accepts the request, the second raises InvalidArgument. -/
theorem unassignedOpcodeIsInvalidArgument : Obligations.UnassignedOpcodeIsInvalidArgument := by
  rintro s r rest ⟨hu, hidle, hhost, hrest⟩ hopc
  have haccept : step s = .next { s with phase := .illegal r.opc, history := s.history ++ [.request r],
                                         env := s.env.withHost rest } := by
    rw [step_call hu hidle hhost, accept_unassigned hopc, popHost_eq hhost]
    rfl
  rw [runs_succ haccept]
  refine Eq.trans (runs_succ (step_illegal hu rfl hrest)) ?_
  simp [State.responded, Work.empty, hidle]

/-! ## Result codes -/

/-- Settles O17: the table of R91, row by row. -/
theorem resultCodes : Obligations.ResultCodes := ⟨rfl, rfl, rfl, rfl, rfl⟩

end Sys2Proof.Machine
end

section
/-! PROOFS. The register-access encoder: the payload commands run as their one transaction (O19), each operation of
register access at each position of its pseudocode (O21 to O27), and READ_REG as a whole run (O41). -/

namespace Sys2Proof.Machine

open Sys2Proof

/-! ## Frames and slices -/

/-- A register read of an operation carries the masked address (R84). -/
theorem frameReadReg_regField (addr : Byte) (n : Nat) :
    frameReadReg (regField addr) n = [wr [0x00#8 ||| (addr &&& 0x1F#8)], rd n] := by
  rw [frameReadReg, regCommand, setWidth_regField]

/-- A register write of an operation carries the masked address (R84). -/
theorem frameWriteReg_regField (addr : Byte) (bytes : List Byte) :
    frameWriteReg (regField addr) bytes = [wr [0x20#8 ||| (addr &&& 0x1F#8)], wr bytes] := by
  rw [frameWriteReg, regCommand, setWidth_regField]

/-- A zero-length data segment is omitted (R85). -/
theorem frameWritePayload_eq (payload : List Byte) :
    frameWritePayload payload = if payload = [] then [wr [0xA0#8]] else [wr [0xA0#8], wr payload] := by
  cases payload <;> rfl

/-- A slice as long as its buffer is the buffer. -/
theorem bufSlice_whole {buf : List Byte} {n : Nat} (h : buf.length = n) : bufSlice buf 0 n = buf :=
  List.take_of_length_le h.le

/-! ## Responses -/

theorem returnOk_without_data {s : State} {r : Response} (h : r.data = none) :
    returnOk r s = .next (s.responded r) := by
  rw [returnOk, deliver_without_data s r h]

/-- The bytes of a response stand at the start of the output buffer (R73). -/
theorem returnOk_with_data {s : State} {r : Response} {bytes : List Byte} (h : r.data = some bytes) :
    returnOk r s = .next { s.responded r with out := s.out.writeBytes 0 bytes } := by
  simp [returnOk, State.deliver, State.responded, h]

/-- The response to a failed transaction (R14, R226). -/
theorem exec_fail_responds {s : State} {i : Instr} (hi : i.isHostOp = true) (hn : i ≠ .enterStandby)
    (hp : s.phase = .busy i .fail) : exec i s = .next (s.responded { result := .busError }) := by
  rw [exec_fail hi hn hp, raise_eq]

/-- The operations whose Ok response carries the result alone (R95). -/
def returnsBareOk (i : Instr) : Bool :=
  match i with
  | .writeReg _ _ | .writeAddrReg _ _ _ | .writeTxPayload _ _ | .flushTx | .flushRx | .powerUp | .powerDown
  | .enterReceive | .enterTransmit | .enterStandby | .send _ _ => true
  | _ => false

theorem exec_ret_bareOk {s : State} {i : Instr} (hi : returnsBareOk i = true) (hp : s.phase = .busy i .ret) :
    exec i s = .next (s.responded { result := .ok }) := by
  have hret : exec i s = returnOk { result := .ok } s := by
    cases i
    case writeReg | writeAddrReg | writeTxPayload | flushTx | flushRx | powerUp | powerDown | enterReceive
        | enterTransmit | enterStandby | send =>
      simp only [exec, execWriteReg, execWriteAddrReg, execWriteTxPayload, execFlushTx, execFlushRx, execPowerUp,
        execPowerDown, execEnterReceive, execEnterTransmit, execEnterStandby, execSend, State.pos_busy hp]
    all_goals cases hi
  rw [hret, returnOk_without_data rfl]

/-! ## The payload commands -/

/-- Settles O19: at entry each is a transaction of its frame. -/
theorem payloadCommandsIssueTheirFrame : Obligations.PayloadCommandsIssueTheirFrame := by
  intro s w p
  refine ⟨fun hp => ?_, fun hp => ?_, fun hp => ?_, fun i l hi hl hp => ?_⟩
  · simp only [exec, execRRxPlWid, State.pos_busy hp, readRxPlWid, transact_eq]
    rfl
  · simp only [exec, execRRxPayload, State.pos_busy hp, transact_eq]
    rfl
  · simp only [exec, execWTxPayload, State.pos_busy hp, transact_eq, frameWritePayload_eq]
    rfl
  · have hcommand : i.isHostOp = false := by obtain rfl | rfl | rfl := hi <;> rfl
    exact exec_command_returns hcommand hl hp

/-! ## READ_REG and WRITE_REG -/

theorem exec_readReg_entry {s : State} {addr : Byte} (hp : s.phase = .busy (.readReg addr) .entry) :
    exec (.readReg addr) s = .next
      (s.transacted (.readReg addr) [wr [0x00#8 ||| (addr &&& 0x1F#8)], rd 1] .ret
        fun rx => { s.work with rd := some rx }) := by
  simp only [exec, execReadReg, State.pos_busy hp, regRead, transact_eq, frameReadReg_regField]
  rfl

theorem exec_readReg_ret {s : State} {addr b : Byte} (hp : s.phase = .busy (.readReg addr) .ret)
    (hrd : s.work.rd = some [b]) :
    exec (.readReg addr) s = .next (s.responded { result := .ok, value := some b }) := by
  simp only [exec, execReadReg, State.pos_busy hp, hrd, need_some]
  exact returnOk_without_data rfl

/-- Settles O21: a transaction at entry, and the byte it left is the response. -/
theorem readRegPseudocode : Obligations.ReadRegPseudocode := by
  intro s addr b
  refine ⟨fun r => ?_, exec_readReg_entry, exec_readReg_ret, exec_fail_responds rfl nofun⟩
  obtain ⟨hdecode, -⟩ := requestsDecodeByOpcode r
  exact hdecode

/-- Settles O22: a transaction at entry, and nothing of its answer is read. -/
theorem writeRegPseudocode : Obligations.WriteRegPseudocode := by
  intro s addr v
  refine ⟨fun r => ?decode, fun hp => ?entry, exec_ret_bareOk rfl, exec_fail_responds rfl nofun⟩
  case decode =>
    obtain ⟨-, hdecode, -⟩ := requestsDecodeByOpcode r
    exact hdecode
  case entry =>
    simp only [exec, execWriteReg, State.pos_busy hp, regWrite, transact_eq, frameWriteReg_regField]
    rfl

/-! ## READ_ADDR_REG and WRITE_ADDR_REG -/

/-- Settles O23: the length decides at entry, and the five bytes of the answer are the data of the response. -/
theorem readAddrRegPseudocode : Obligations.ReadAddrRegPseudocode := by
  intro s addr len bytes
  refine ⟨fun r => ?decode, fun hp hlen => ?rejected, fun hp hlen => ?entry, fun hp hrd hbytes => ?ret,
    exec_fail_responds rfl nofun⟩
  case decode =>
    obtain ⟨-, -, hdecode, -⟩ := requestsDecodeByOpcode r
    exact hdecode
  case rejected =>
    simp only [exec, execReadAddrReg, State.pos_busy hp, Config.addrRegLen, if_neg hlen, raise_eq]
  case entry =>
    simp only [exec, execReadAddrReg, State.pos_busy hp, Config.addrRegLen, if_pos hlen, transact_eq,
      frameReadReg_regField]
    rfl
  case ret =>
    simp only [exec, execReadAddrReg, State.pos_busy hp, hrd, need_some, bufSlice_whole hbytes, Config.addrRegLen]
    exact returnOk_with_data rfl

/-- Settles O24: the length decides at entry, and a buffer of that length goes out whole. -/
theorem writeAddrRegPseudocode : Obligations.WriteAddrRegPseudocode := by
  intro s addr len data
  refine ⟨fun r => ?decode, fun hp hlen => ?rejected, fun hp hlen hdata => ?entry, exec_ret_bareOk rfl,
    exec_fail_responds rfl nofun⟩
  case decode =>
    obtain ⟨-, -, -, hdecode, -⟩ := requestsDecodeByOpcode r
    exact hdecode
  case rejected =>
    simp only [exec, execWriteAddrReg, State.pos_busy hp, Config.addrRegLen, if_neg hlen, raise_eq]
  case entry =>
    simp only [exec, execWriteAddrReg, State.pos_busy hp, Config.addrRegLen, if_pos hlen,
      bufSlice_whole (hdata.trans hlen), transact_eq, frameWriteReg_regField]
    rfl

/-! ## WRITE_TX_PAYLOAD -/

/-- A payload of at most 32 bytes goes out whole, as the payload command's own frame (R114). -/
theorem exec_writeTxPayload_entry {s : State} {len : Nat} {data : List Byte}
    (hp : s.phase = .busy (.writeTxPayload len data) .entry) (hdata : data.length = len) (hlen : len ≤ 32) :
    exec (.writeTxPayload len data) s = .next
      (s.transacted (.writeTxPayload len data) (frameWritePayload data) .ret fun _ => s.work) := by
  simp only [exec, execWriteTxPayload, State.pos_busy hp, Config.maxPayload, if_pos hlen, bufSlice_whole hdata,
    transact_eq]
  rfl

/-- Settles O25: the length decides at entry, and the empty payload has no data segment. -/
theorem writeTxPayloadPseudocode : Obligations.WriteTxPayloadPseudocode := by
  intro s len data
  refine ⟨fun r => ?decode, fun hp hlen => ?rejected, fun hp hdata hpos hlen => ?payload,
    fun hp hdata hzero => ?empty, exec_ret_bareOk rfl, exec_fail_responds rfl nofun⟩
  case decode =>
    obtain ⟨-, -, -, -, hdecode, -⟩ := requestsDecodeByOpcode r
    exact hdecode
  case rejected =>
    simp only [exec, execWriteTxPayload, State.pos_busy hp, Config.maxPayload, if_neg hlen.not_ge, raise_eq]
  case payload =>
    have hne : data ≠ [] := List.ne_nil_of_length_pos (hdata ▸ hpos)
    rw [exec_writeTxPayload_entry hp hdata hlen, frameWritePayload_eq, if_neg hne]
  case empty =>
    have hnil : data = [] := List.eq_nil_of_length_eq_zero (hdata.trans hzero)
    rw [exec_writeTxPayload_entry hp hdata (by omega), frameWritePayload_eq, if_pos hnil]

/-! ## Flushes and status reads -/

/-- Settles O26: each is a transaction of its command byte. -/
theorem flushPseudocode : Obligations.FlushPseudocode := by
  intro s
  refine ⟨fun r => ?decodeTx, fun r => ?decodeRx, fun hp => ?entryTx, fun hp => ?entryRx, fun i hi => ?ends⟩
  case decodeTx =>
    obtain ⟨-, -, -, -, -, hdecode, -⟩ := requestsDecodeByOpcode r
    exact hdecode
  case decodeRx =>
    obtain ⟨-, -, -, -, -, -, hdecode, -⟩ := requestsDecodeByOpcode r
    exact hdecode
  case entryTx =>
    simp only [exec, execFlushTx, State.pos_busy hp, transact_eq]
    rfl
  case entryRx =>
    simp only [exec, execFlushRx, State.pos_busy hp, transact_eq]
    rfl
  case ends =>
    obtain rfl | rfl := hi <;> exact ⟨exec_ret_bareOk rfl, exec_fail_responds rfl nofun⟩

/-- Settles O27: each is a transaction at entry, and the byte it left is the response. -/
theorem statusReadPseudocode : Obligations.StatusReadPseudocode := by
  intro s b
  refine ⟨fun r => ?decodeStatus, fun r => ?decodeFifo, fun hp => ?entryStatus, fun hp hst => ?retStatus,
    exec_fail_responds rfl nofun, fun hp => ?entryFifo, fun hp hfs => ?retFifo, exec_fail_responds rfl nofun⟩
  case decodeStatus =>
    obtain ⟨-, -, -, -, -, -, -, hdecode, -⟩ := requestsDecodeByOpcode r
    exact hdecode
  case decodeFifo =>
    obtain ⟨-, -, -, -, -, -, -, -, hdecode, -⟩ := requestsDecodeByOpcode r
    exact hdecode
  case entryStatus =>
    simp only [exec, execGetStatus, State.pos_busy hp, readStatus, regRead, transact_eq]
    rfl
  case retStatus =>
    simp only [exec, execGetStatus, State.pos_busy hp, hst, need_some]
    exact returnOk_without_data rfl
  case entryFifo =>
    simp only [exec, execGetFifoStatus, State.pos_busy hp, readFifoStatus, regRead, transact_eq]
    rfl
  case retFifo =>
    simp only [exec, execGetFifoStatus, State.pos_busy hp, hfs, need_some]
    exact returnOk_without_data rfl

/-! ## READ_REG as a run -/

/-- One step of the instruction in progress, then the rest of the run. -/
theorem runs_busy {s t : State} {i : Instr} {l : Label} {k : Nat} (hu : s.unmarked) (hp : s.phase = .busy i l)
    (hh : keepsProtocol s.env.host = true) (he : exec i s = .next t) : runs (k + 1) s = runs k t :=
  runs_succ ((step_busy hu hp hh).trans he)

/-- READ_REG from its entry: the byte the device answers is the value of the response (R110). -/
theorem runs_readReg {s : State} {addr b : Byte} {more : List BusAnswer} (hu : s.unmarked)
    (hp : s.phase = .busy (.readReg addr) .entry) (hh : keepsProtocol s.env.host = true)
    (hbus : s.env.bus = .ok [b] :: more) :
    runs 2 s = .next
      { s with
        phase := .idle, work := {}, env := s.env.popBus
        history := s.history ++
          [.bus [wr [0x00#8 ||| (addr &&& 0x1F#8)], rd 1] (.ok [b]),
           .response { result := .ok, value := some b }] } := by
  have hanswer : s.env.busAnswer [wr [0x00#8 ||| (addr &&& 0x1F#8)], rd 1] = .ok [b] := busAnswer_scripted hbus rfl
  rw [runs_busy hu hp hh (exec_readReg_entry hp), transacted_ok hanswer]
  refine Eq.trans (runs_busy hu rfl hh (exec_readReg_ret rfl rfl)) ?_
  simp [State.responded, Work.empty]

/-- Settles O41: the request is accepted, and READ_REG runs from its entry. -/
theorem readRegFromRequestToResponse : Obligations.ReadRegFromRequestToResponse := by
  intro s addr b rest more hready hbus
  have ⟨hu, hidle, _, hrest⟩ := hready
  rw [runs_succ (step_ready hready rfl rfl)]
  refine Eq.trans (runs_readReg hu rfl hrest hbus) ?_
  simp [Env.popBus, Env.withHost, Env.advanced, hidle, hbus]

end Sys2Proof.Machine
end

section
/-! PROOFS. The mode state machine: the table of transitions (O31), each transition at each position of its pseudocode
(O28 to O30), and the runs of POWER_UP (O42), of a transition that fails (O43) and of two ENTER_STANDBY (O44). -/

namespace Sys2Proof.Machine

open Sys2Proof

/-! ## The bits a transition changes (R88, R145) -/

/-- Setting a bit leaves the bits that the mask has clear. -/
theorem getLsbD_or_of_clear {c mask : Byte} {k : Nat} (h : mask.getLsbD k = false) :
    (c ||| mask).getLsbD k = c.getLsbD k := by
  rw [BitVec.getLsbD_or, h, Bool.or_false]

/-- Clearing a bit leaves the bits that the mask has set. -/
theorem getLsbD_and_of_set {c mask : Byte} {k : Nat} (h : mask.getLsbD k = true) :
    (c &&& mask).getLsbD k = c.getLsbD k := by
  rw [BitVec.getLsbD_and, h, Bool.and_true]

@[simp] theorem pwrUp_setPwrUp (c : Byte) : pwrUp (setPwrUp c) = true := by simp [pwrUp, setPwrUp]
@[simp] theorem pwrUp_clearPwrUp (c : Byte) : pwrUp (clearPwrUp c) = false := by simp [pwrUp, clearPwrUp]
@[simp] theorem pwrUp_setPrimRx (c : Byte) : pwrUp (setPrimRx c) = pwrUp c := getLsbD_or_of_clear rfl
@[simp] theorem pwrUp_clearPrimRx (c : Byte) : pwrUp (clearPrimRx c) = pwrUp c := getLsbD_and_of_set rfl
@[simp] theorem primRx_setPrimRx (c : Byte) : primRx (setPrimRx c) = true := by simp [primRx, setPrimRx]
@[simp] theorem primRx_clearPrimRx (c : Byte) : primRx (clearPrimRx c) = false := by simp [primRx, clearPrimRx]
@[simp] theorem primRx_setPwrUp (c : Byte) : primRx (setPwrUp c) = primRx c := getLsbD_or_of_clear rfl

/-! ## The derived mode (R34) -/

theorem mode_of_pwrUp_false {c : Byte} (ce : Bool) (h : pwrUp c = false) : mode c ce = .poweredDown := by
  simp [mode, h]

theorem mode_of_pwrUp {c : Byte} (ce : Bool) (h : pwrUp c = true) :
    mode c ce = if ce = false then .standby else if primRx c then .receive else .transmit := by
  simp [mode, h]

theorem mode_ce_low (c : Byte) : mode c false = if pwrUp c then .standby else .poweredDown := by
  cases h : pwrUp c <;> simp [mode, h]

theorem mode_ce_high (c : Byte) :
    mode c true = if pwrUp c then (if primRx c then .receive else .transmit) else .poweredDown := by
  cases h : pwrUp c <;> simp [mode, h]

/-- Settles O31: each mask touches its one bit, and the mode is read from the two flags of the written byte. -/
theorem modeTransitionTable : Obligations.ModeTransitionTable := by
  intro c ce
  refine ⟨fun k hk hne => ?pwrUpOnly, fun k hk hne => ?primRxOnly, ?powerUp, ?powerDown, ?receive, ?transmit,
    mode_ce_low c⟩
  case pwrUpOnly =>
    have hmasks : ∀ k < 8, k ≠ 1 → (0x02#8).getLsbD k = false ∧ (0xFD#8).getLsbD k = true := by decide
    obtain ⟨hset, hclear⟩ := hmasks k hk hne
    exact ⟨getLsbD_or_of_clear hset, getLsbD_and_of_set hclear⟩
  case primRxOnly =>
    have hmasks : ∀ k < 8, k ≠ 0 → (0x01#8).getLsbD k = false ∧ (0xFE#8).getLsbD k = true := by decide
    obtain ⟨hset, hclear⟩ := hmasks k hk hne
    exact ⟨getLsbD_or_of_clear hset, getLsbD_and_of_set hclear⟩
  case powerUp =>
    have hmode := mode_of_pwrUp ce (pwrUp_setPwrUp c)
    rwa [primRx_setPwrUp] at hmode
  case powerDown => exact mode_of_pwrUp_false ce (pwrUp_clearPwrUp c)
  case receive =>
    have hmode := mode_ce_high (setPrimRx c)
    rwa [pwrUp_setPrimRx, primRx_setPrimRx] at hmode
  case transmit =>
    have hmode := mode_ce_high (clearPrimRx c)
    rwa [pwrUp_clearPrimRx, primRx_clearPrimRx] at hmode

/-! ## The actions of a transition -/

/-- A CONFIG read is one transaction, whose byte is kept (R145). -/
theorem readConfig_eq (i : Instr) (next : Label) (s : State) :
    readConfig i next s =
      .next (s.transacted i [wr [0x00#8], rd 1] next fun rx => { s.work with cfg := rx[0]? }) :=
  transact_eq i _ next keepCfg s

/-- A CONFIG write is one transaction of the byte read with its bit changed (R145). -/
theorem writeConfig_eq {s : State} {cfg : Byte} (i : Instr) (change : Byte → Byte) (next : Label)
    (hcfg : s.work.cfg = some cfg) :
    writeConfig i change next s =
      .next (s.transacted i [wr [0x20#8], wr [change cfg]] next fun _ => s.work) := by
  rw [writeConfig, hcfg, need_some]
  exact transact_eq i _ next keepNothing s

theorem drivePin_eq (i : Instr) (level : Bool) (next : Label) (s : State) :
    drivePin i level next s =
      .next { s with ce := level, phase := .busy i next, history := s.history ++ [.pin level] } := rfl

/-! ## The transitions that write CONFIG (R140–R143) -/

/-- i is a transition that writes the CONFIG byte it read under the given change, and then stands at the given
position: the pin write follows for the two that change the activity flag. -/
inductive Transition : Instr → (Byte → Byte) → Label → Prop where
  | powerUp : Transition .powerUp setPwrUp .ret
  | powerDown : Transition .powerDown clearPwrUp .ret
  | enterReceive : Transition .enterReceive setPrimRx .p
  | enterTransmit : Transition .enterTransmit clearPrimRx .p

namespace Transition

variable {s : State} {i : Instr} {change : Byte → Byte} {next : Label} {cfg : Byte}

theorem exec_entry (h : Transition i change next) (hp : s.phase = .busy i .entry) :
    exec i s = .next (s.transacted i [wr [0x00#8], rd 1] .w fun rx => { s.work with cfg := rx[0]? }) := by
  rw [← readConfig_eq]
  cases h <;> simp only [exec, execPowerUp, execPowerDown, execEnterReceive, execEnterTransmit, State.pos_busy hp]

theorem exec_w (h : Transition i change next) (hp : s.phase = .busy i .w) (hcfg : s.work.cfg = some cfg) :
    exec i s = .next (s.transacted i [wr [0x20#8], wr [change cfg]] next fun _ => s.work) := by
  rw [← writeConfig_eq i change next hcfg]
  cases h <;> simp only [exec, execPowerUp, execPowerDown, execEnterReceive, execEnterTransmit, State.pos_busy hp]

theorem exec_ret (h : Transition i change next) (hp : s.phase = .busy i .ret) :
    exec i s = .next (s.responded { result := .ok }) := by
  cases h <;> exact exec_ret_bareOk rfl hp

theorem isHostOp (h : Transition i change next) : i.isHostOp = true := by cases h <;> rfl

theorem ne_enterStandby (h : Transition i change next) : i ≠ .enterStandby := by
  rintro rfl
  cases h

theorem wf (h : Transition i change next) (p : Params) : i.wf p = true := by cases h <;> rfl

theorem exec_fail (h : Transition i change next) (hp : s.phase = .busy i .fail) :
    exec i s = .next (s.responded { result := .busError }) :=
  exec_fail_responds h.isHostOp h.ne_enterStandby hp

/-- The activity transitions raise chip-enable last (R142, R143). -/
theorem exec_p (h : Transition i change .p) (hp : s.phase = .busy i .p) :
    exec i s = .next { s with ce := true, phase := .busy i .ret, history := s.history ++ [.pin true] } := by
  rw [← drivePin_eq]
  cases h <;> simp only [exec, execEnterReceive, execEnterTransmit, State.pos_busy hp]

end Transition

/-- Settles O28: both are transitions that return after the CONFIG write. -/
theorem powerPseudocode : Obligations.PowerPseudocode := by
  intro s cfg
  refine ⟨fun r => ?decodeUp, fun r => ?decodeDown, fun i hi => ?both, Transition.powerUp.exec_w,
    Transition.powerDown.exec_w⟩
  case decodeUp =>
    obtain ⟨-, -, -, -, -, -, -, -, -, hdecode, -⟩ := requestsDecodeByOpcode r
    exact hdecode
  case decodeDown =>
    obtain ⟨-, -, -, -, -, -, -, -, -, -, hdecode, -⟩ := requestsDecodeByOpcode r
    exact hdecode
  case both =>
    obtain ⟨change, h⟩ : ∃ change, Transition i change .ret := by
      obtain rfl | rfl := hi
      · exact ⟨_, .powerUp⟩
      · exact ⟨_, .powerDown⟩
    exact ⟨h.exec_entry, h.exec_ret, h.exec_fail⟩

/-- Settles O29: both are transitions that raise chip-enable after the CONFIG write. -/
theorem activityPseudocode : Obligations.ActivityPseudocode := by
  intro s cfg
  refine ⟨fun r => ?decodeReceive, fun r => ?decodeTransmit, fun i hi => ?both, Transition.enterReceive.exec_w,
    Transition.enterTransmit.exec_w⟩
  case decodeReceive =>
    obtain ⟨-, -, -, -, -, -, -, -, -, -, -, hdecode, -⟩ := requestsDecodeByOpcode r
    exact hdecode
  case decodeTransmit =>
    obtain ⟨-, -, -, -, -, -, -, -, -, -, -, -, hdecode, -⟩ := requestsDecodeByOpcode r
    exact hdecode
  case both =>
    obtain ⟨change, h⟩ : ∃ change, Transition i change .p := by
      obtain rfl | rfl := hi
      · exact ⟨_, .enterReceive⟩
      · exact ⟨_, .enterTransmit⟩
    exact ⟨h.exec_entry, h.exec_p, h.exec_ret, h.exec_fail⟩

/-! ## ENTER_STANDBY (R144) -/

theorem exec_enterStandby_entry {s : State} (hp : s.phase = .busy .enterStandby .entry) :
    exec .enterStandby s = .next
      { s with ce := false, phase := .busy .enterStandby .ret, history := s.history ++ [.pin false] } := by
  simp only [exec, execEnterStandby, State.pos_busy hp, drivePin_eq]

/-- Settles O30: a pin write at entry, and then the bare Ok. -/
theorem standbyPseudocode : Obligations.StandbyPseudocode := by
  intro s
  refine ⟨fun r => ?decode, exec_enterStandby_entry, exec_ret_bareOk rfl⟩
  case decode =>
    obtain ⟨-, -, -, -, -, -, -, -, -, -, -, -, -, hdecode, -⟩ := requestsDecodeByOpcode r
    exact hdecode

/-! ## Runs of a transition -/

section
variable {s : State} {i : Instr} {change : Byte → Byte} {next : Label}

/-- A step that is a transaction the device fails is followed by the BusError response alone (R14, R226). -/
theorem runs_failed_transaction {f : Frame} {l next : Label} {work : List Byte → Work} (hu : s.unmarked)
    (hp : s.phase = .busy i l) (hh : keepsProtocol s.env.host = true) (hi : i.isHostOp = true)
    (hn : i ≠ .enterStandby) (he : exec i s = .next (s.transacted i f next work))
    (hanswer : s.env.busAnswer f = .err) :
    runs 2 s = .next
      { s with
        phase := .idle, work := {}, env := s.env.popBus
        history := s.history ++ [.bus f .err, .response { result := .busError }] } := by
  rw [runs_busy hu hp hh he, transacted_err hanswer]
  refine Eq.trans (runs_busy hu rfl hh (exec_fail_responds hi hn rfl)) ?_
  simp [State.responded, Work.empty]

/-- The state of a transition after its CONFIG read has returned the given byte. -/
def State.configRead (s : State) (i : Instr) (c : Byte) : State :=
  { s with
    phase := .busy i .w, work := { s.work with cfg := some c }, env := s.env.popBus
    history := s.history ++ [.bus [wr [0x00#8], rd 1] (.ok [c])] }

/-- A transition's first step, when the device answers the CONFIG read (R145). -/
theorem Transition.runs_read {c : Byte} {more : List BusAnswer} {k : Nat} (h : Transition i change next)
    (hu : s.unmarked) (hp : s.phase = .busy i .entry) (hh : keepsProtocol s.env.host = true)
    (hbus : s.env.bus = .ok [c] :: more) : runs (k + 1) s = runs k (s.configRead i c) := by
  rw [runs_busy hu hp hh (h.exec_entry hp), transacted_ok (busAnswer_scripted hbus rfl)]
  rfl

/-- POWER_UP and POWER_DOWN from the CONFIG write on, when the device acknowledges it (R140, R141). -/
theorem Transition.runs_write_ret {c : Byte} {more : List BusAnswer} (h : Transition i change .ret)
    (hu : s.unmarked) (hp : s.phase = .busy i .w) (hh : keepsProtocol s.env.host = true)
    (hcfg : s.work.cfg = some c) (hbus : s.env.bus = .ok [] :: more) :
    runs 2 s = .next
      { s with
        phase := .idle, work := {}, env := s.env.popBus
        history := s.history ++ [.bus [wr [0x20#8], wr [change c]] (.ok []), .response { result := .ok }] } := by
  rw [runs_busy hu hp hh (h.exec_w hp hcfg), transacted_ok (busAnswer_scripted hbus rfl)]
  refine Eq.trans (runs_busy hu rfl hh (h.exec_ret rfl)) ?_
  simp [State.responded, Work.empty]

variable {r : Request} {rest : List HostAct} {more : List BusAnswer}

/-- POWER_UP or POWER_DOWN from request to response. -/
theorem Transition.runs_request_ret {c : Byte} (h : Transition i change .ret) (hd : decodeRequest r = .ok i)
    (hready : s.ready r rest) (hbus : s.env.bus = .ok [c] :: .ok [] :: more) :
    runs 4 s = .next
      { s with
        work := {}, env := s.env.advanced rest more 2 s.env.hook 0
        history := s.history ++
          [.request r, .bus [wr [0x00#8], rd 1] (.ok [c]), .bus [wr [0x20#8], wr [change c]] (.ok []),
           .response { result := .ok }] } := by
  have ⟨hu, hidle, _, hrest⟩ := hready
  have hwrite : s.env.bus.tail = .ok [] :: more := congrArg List.tail hbus
  rw [runs_succ (step_ready hready hd (h.wf _))]
  refine Eq.trans (h.runs_read hu rfl hrest hbus) ?_
  refine Eq.trans (h.runs_write_ret hu rfl hrest rfl hwrite) ?_
  simp [State.configRead, Env.popBus, Env.withHost, Env.advanced, hidle, hbus]

/-- A transition whose CONFIG read fails, from request to response: no write is issued (R146). -/
theorem Transition.runs_request_readFails (h : Transition i change next) (hd : decodeRequest r = .ok i)
    (hready : s.ready r rest) (hbus : s.env.bus = .err :: more) :
    runs 3 s = .next
      { s with
        work := {}, env := s.env.advanced rest more 1 s.env.hook 0
        history := s.history ++
          [.request r, .bus [wr [0x00#8], rd 1] .err, .response { result := .busError }] } := by
  have ⟨hu, hidle, _, hrest⟩ := hready
  rw [runs_succ (step_ready hready hd (h.wf _))]
  refine Eq.trans (runs_failed_transaction hu rfl hrest h.isHostOp h.ne_enterStandby (h.exec_entry rfl)
    (busAnswer_scripted_err hbus)) ?_
  simp [Env.popBus, Env.withHost, Env.advanced, hidle, hbus]

/-- A transition whose CONFIG write fails, from request to response: the pin is not written (R146). -/
theorem Transition.runs_request_writeFails {c : Byte} (h : Transition i change next) (hd : decodeRequest r = .ok i)
    (hready : s.ready r rest) (hbus : s.env.bus = .ok [c] :: .err :: more) :
    runs 4 s = .next
      { s with
        work := {}, env := s.env.advanced rest more 2 s.env.hook 0
        history := s.history ++
          [.request r, .bus [wr [0x00#8], rd 1] (.ok [c]), .bus [wr [0x20#8], wr [change c]] .err,
           .response { result := .busError }] } := by
  have ⟨hu, hidle, _, hrest⟩ := hready
  have hwrite : s.env.bus.tail = .err :: more := congrArg List.tail hbus
  rw [runs_succ (step_ready hready hd (h.wf _))]
  refine Eq.trans (h.runs_read hu rfl hrest hbus) ?_
  refine Eq.trans (runs_failed_transaction hu rfl hrest h.isHostOp h.ne_enterStandby (h.exec_w rfl rfl)
    (busAnswer_scripted_err hwrite)) ?_
  simp [State.configRead, Env.popBus, Env.withHost, Env.advanced, hidle, hbus]

end

/-- Settles O42: POWER_UP is a transition without a pin write, and its change sets bit 1. -/
theorem powerUpFromRequestToResponse : Obligations.PowerUpFromRequestToResponse :=
  fun _ _ _ _ hready hbus => Transition.powerUp.runs_request_ret rfl hready hbus

/-- Settles O43: both are transitions, and a failed transaction of either kind ends them. -/
theorem failedTransitionLeavesThePin : Obligations.FailedTransitionLeavesThePin := by
  rintro s opc rest more (rfl | rfl) hready
  · exact ⟨Transition.enterReceive.runs_request_readFails rfl hready,
      fun c => Transition.enterReceive.runs_request_writeFails rfl hready⟩
  · exact ⟨Transition.enterTransmit.runs_request_readFails rfl hready,
      fun c => Transition.enterTransmit.runs_request_writeFails rfl hready⟩

/-! ## ENTER_STANDBY as a run -/

/-- ENTER_STANDBY from request to response: a pin write and no transaction (R144). -/
theorem runs_request_enterStandby {s : State} {rest : List HostAct} (hready : s.ready { opc := 0x14#8 } rest) :
    runs 3 s = .next
      { s with
        ce := false, work := {}, env := s.env.withHost rest
        history := s.history ++ [.request { opc := 0x14#8 }, .pin false, .response { result := .ok }] } := by
  have ⟨hu, hidle, _, hrest⟩ := hready
  rw [runs_succ (step_ready hready rfl rfl)]
  refine Eq.trans (runs_busy hu rfl hrest (exec_enterStandby_entry rfl)) ?_
  refine Eq.trans (runs_busy hu rfl hrest (exec_ret_bareOk rfl rfl)) ?_
  simp [State.responded, Work.empty, hidle]

/-- Settles O44: the state after the first request is ready for the second, which does the same. -/
theorem standbyIsIdempotent : Obligations.StandbyIsIdempotent := by
  intro s rest hready
  have ⟨hu, hidle, _, hrest⟩ := hready
  have hfirst := runs_request_enterStandby hready
  refine ⟨hfirst, (runs_add (k := 3) hfirst).trans ?_⟩
  refine Eq.trans (runs_request_enterStandby ⟨hu, hidle, rfl, hrest⟩) ?_
  simp [Env.withHost]

end Sys2Proof.Machine
end

section
/-! PROOFS. SEND at each position of its pseudocode (O32 to O35). -/

namespace Sys2Proof.Machine

open Sys2Proof

/-! ## The STATUS transactions (R117, R120, R121) -/

theorem readStatus_eq (i : Instr) (next : Label) (s : State) :
    readStatus i next s =
      .next (s.transacted i [wr [0x07#8], rd 1] next fun rx => { s.work with st := rx[0]? }) :=
  transact_eq i _ next keepSt s

theorem clearIrq_eq (i : Instr) (next : Label) (s : State) :
    clearIrq i next s = .next (s.transacted i [wr [0x27#8], wr [0x70#8]] next fun _ => s.work) :=
  transact_eq i _ next keepNothing s

theorem clearTxDs_eq (i : Instr) (next : Label) (s : State) :
    clearTxDs i next s = .next (s.transacted i [wr [0x27#8], wr [0x20#8]] next fun _ => s.work) :=
  transact_eq i _ next keepNothing s

section
variable {s : State} {len off k : Nat} {data : List Byte} {st cfg : Byte}

/-! ## The busy check and ENTER_TRANSMIT (R161, R162) -/

theorem exec_send_entry (hp : s.phase = .busy (.send len data) .entry) :
    exec (.send len data) s = .next
      (s.transacted (.send len data) [wr [0x07#8], rd 1] .etx fun rx => { s.work with st := rx[0]? }) := by
  simp only [exec, execSend, State.pos_busy hp, readStatus_eq]

theorem exec_send_etx_full (hp : s.phase = .busy (.send len data) .etx) (hst : s.work.st = some st)
    (hfull : st.getLsbD 0 = true) :
    exec (.send len data) s = .next (s.responded { result := .deviceBusy }) := by
  simp only [exec, execSend, State.pos_busy hp, hst, need_some, txFull, hfull, if_true, raise_eq]

theorem exec_send_etx_free (hp : s.phase = .busy (.send len data) .etx) (hst : s.work.st = some st)
    (hfree : st.getLsbD 0 = false) :
    exec (.send len data) s = .next
      (s.transacted (.send len data) [wr [0x00#8], rd 1] .etw fun rx => { s.work with cfg := rx[0]? }) := by
  simp only [exec, execSend, State.pos_busy hp, hst, need_some, txFull, hfree, Bool.false_eq_true, if_false,
    readConfig_eq]

theorem exec_send_etw (hp : s.phase = .busy (.send len data) .etw) (hcfg : s.work.cfg = some cfg) :
    exec (.send len data) s = .next
      (s.transacted (.send len data) [wr [0x20#8], wr [cfg &&& 0xFE#8]] .etp fun _ => s.work) := by
  simp only [exec, execSend, State.pos_busy hp, writeConfig_eq _ _ _ hcfg, clearPrimRx]

theorem exec_send_etp (hp : s.phase = .busy (.send len data) .etp) :
    exec (.send len data) s = .next
      { s with ce := true, phase := .busy (.send len data) .chunk, history := s.history ++ [.pin true] } := by
  simp only [exec, execSend, State.pos_busy hp, drivePin_eq]

/-! ## The loop head (R163, R164, R169) -/

theorem sendLoop_below (h : off < len) (hdata : data.length = len) :
    let w : Work := { s.work with off := some off, n := some (BitVec.ofNat 6 (min 32 (len - off))) }
    sendLoop len data off s = .next
      (({ s with work := w } : State).transacted (.send len data)
        [wr [0xA0#8], wr ((data.drop off).take (min 32 (len - off)))] .poll fun _ => w) := by
  have hne : bufSlice data off (chunkLen len off) ≠ [] := by
    apply List.ne_nil_of_length_pos
    simp only [bufSlice, chunkLen, Config.maxPayload, List.length_take, List.length_drop]
    omega
  rw [sendLoop, if_pos h, transact_eq, frameWritePayload_eq, if_neg hne]
  rfl

theorem sendLoop_past (h : len ≤ off) :
    sendLoop len data off s = .next
      { s with ce := false, work := { s.work with off := some off }, phase := .busy (.send len data) .ret
               history := s.history ++ [.pin false] } := by
  rw [sendLoop, if_neg h.not_gt]
  rfl

theorem sendNext_eq {n : BitVec 6} (hoff : s.work.off = some off) (hn : s.work.n = some n) :
    sendNext len data s = sendLoop len data (off + n.toNat) s := by
  simp only [sendNext, hoff, hn, need_some]

theorem exec_send_chunk (hp : s.phase = .busy (.send len data) .chunk) :
    exec (.send len data) s = sendLoop len data 0 s := by
  simp only [exec, execSend, State.pos_busy hp]

theorem exec_send_ack {n : BitVec 6} (hp : s.phase = .busy (.send len data) .ack) (hoff : s.work.off = some off)
    (hn : s.work.n = some n) : exec (.send len data) s = sendLoop len data (off + n.toNat) s := by
  simp only [exec, execSend, State.pos_busy hp, sendNext_eq hoff hn]

/-! ## The tests after a poll read (R165, R167, R168) -/

theorem pollLimitReached_iff {p : Params} :
    pollLimitReached p k = true ↔ ∃ l, p.txPollLimit = some l ∧ l ≤ k := by
  cases h : p.txPollLimit <;> simp [pollLimitReached, h]

/-- So many polls do not reach the bound, if there is one (R168). -/
def BelowPollLimit (p : Params) (polls : Nat) : Prop := ∀ l, p.txPollLimit = some l → polls < l

theorem BelowPollLimit.mono {p : Params} {m : Nat} (h : BelowPollLimit p m) (hle : k ≤ m) : BelowPollLimit p k :=
  fun l hl => hle.trans_lt (h l hl)

theorem pollLimitReached_of_below {p : Params} (h : BelowPollLimit p k) : pollLimitReached p k = false := by
  rw [Bool.eq_false_iff, Ne, pollLimitReached_iff]
  rintro ⟨l, hl, hle⟩
  exact (h l hl).not_ge hle

theorem sendTest_maxRt (h : st.getLsbD 4 = true) :
    sendTest len data st k s = clearIrq (.send len data) .flush s :=
  if_pos h

theorem sendTest_txDs (h4 : st.getLsbD 4 = false) (h5 : st.getLsbD 5 = true) :
    sendTest len data st k s =
      if s.par.clearTxDs then clearTxDs (.send len data) .ack s else sendNext len data s := by
  rw [sendTest, maxRt, h4, txDs, h5, if_neg Bool.false_ne_true, if_pos rfl]

theorem sendTest_quiet (h4 : st.getLsbD 4 = false) (h5 : st.getLsbD 5 = false) :
    sendTest len data st k s =
      if pollLimitReached s.par k then clearIrq (.send len data) .flush s else yieldStep (.send len data) s := by
  rw [sendTest, maxRt, h4, txDs, h5, if_neg Bool.false_ne_true, if_neg Bool.false_ne_true]

/-! ## The polls (R165) -/

theorem exec_send_poll (hp : s.phase = .busy (.send len data) .poll) :
    let w : Work := { s.work with polls := some 0 }
    exec (.send len data) s = .next
      (({ s with work := w } : State).transacted (.send len data) [wr [0x07#8], rd 1] .test
        fun rx => { w with st := rx[0]? }) := by
  simp only [exec, execSend, State.pos_busy hp, readStatus_eq]
  rfl

/-- At its test SEND counts the poll and tests the snapshot. -/
theorem exec_send_test (hp : s.phase = .busy (.send len data) .test) (hst : s.work.st = some st)
    (hk : s.work.polls = some k) :
    exec (.send len data) s =
      sendTest len data st (k + 1) { s with work := { s.work with polls := some (k + 1) } } := by
  simp only [exec, execSend, State.pos_busy hp, hst, hk, need_some]
  rfl

theorem exec_send_test_maxRt (hp : s.phase = .busy (.send len data) .test) (hst : s.work.st = some st)
    (hk : s.work.polls = some k) (h4 : st.getLsbD 4 = true) :
    let w : Work := { s.work with polls := some (k + 1) }
    exec (.send len data) s = .next
      (({ s with work := w } : State).transacted (.send len data) [wr [0x27#8], wr [0x70#8]] .flush fun _ => w) := by
  rw [exec_send_test hp hst hk, sendTest_maxRt h4, clearIrq_eq]

theorem exec_send_test_txDs (hp : s.phase = .busy (.send len data) .test) (hst : s.work.st = some st)
    (hk : s.work.polls = some k) (h4 : st.getLsbD 4 = false) (h5 : st.getLsbD 5 = true)
    (hclear : s.par.clearTxDs = true) :
    let w : Work := { s.work with polls := some (k + 1) }
    exec (.send len data) s = .next
      (({ s with work := w } : State).transacted (.send len data) [wr [0x27#8], wr [0x20#8]] .ack fun _ => w) := by
  rw [exec_send_test hp hst hk, sendTest_txDs h4 h5, if_pos hclear, clearTxDs_eq]

theorem exec_send_test_limit (hp : s.phase = .busy (.send len data) .test) (hst : s.work.st = some st)
    (hk : s.work.polls = some k) (h4 : st.getLsbD 4 = false) (h5 : st.getLsbD 5 = false) {l : Nat}
    (hl : s.par.txPollLimit = some l) (hle : l ≤ k + 1) :
    let w : Work := { s.work with polls := some (k + 1) }
    exec (.send len data) s = .next
      (({ s with work := w } : State).transacted (.send len data) [wr [0x27#8], wr [0x70#8]] .flush fun _ => w) := by
  have hreached : pollLimitReached s.par (k + 1) = true := pollLimitReached_iff.mpr ⟨l, hl, hle⟩
  rw [exec_send_test hp hst hk, sendTest_quiet h4 h5, if_pos hreached, clearIrq_eq]

theorem exec_send_test_yield (hp : s.phase = .busy (.send len data) .test) (hst : s.work.st = some st)
    (hk : s.work.polls = some k) (h4 : st.getLsbD 4 = false) (h5 : st.getLsbD 5 = false)
    (hbelow : BelowPollLimit s.par (k + 1)) :
    exec (.send len data) s = .next
      { s with work := { s.work with polls := some (k + 1) }, phase := .busy (.send len data) .yld
               history := s.history ++ [.yield] } := by
  rw [exec_send_test hp hst hk, sendTest_quiet h4 h5, pollLimitReached_of_below hbelow, if_neg Bool.false_ne_true]
  rfl

theorem exec_send_yld (hp : s.phase = .busy (.send len data) .yld) (hhook : s.env.hookReturned = true) :
    exec (.send len data) s = .next
      (s.popHook.transacted (.send len data) [wr [0x07#8], rd 1] .test fun rx => { s.work with st := rx[0]? }) := by
  simp only [exec, execSend, State.pos_busy hp, awaitHook_returned hhook, readStatus_eq, State.popHook_work]

/-! ## The recovery (R166) -/

theorem exec_send_flush (hp : s.phase = .busy (.send len data) .flush) :
    exec (.send len data) s = .next (s.transacted (.send len data) [wr [0xE1#8]] .standby fun _ => s.work) := by
  simp only [exec, execSend, State.pos_busy hp, transact_eq]
  rfl

theorem exec_send_standby (hp : s.phase = .busy (.send len data) .standby) :
    exec (.send len data) s = .next
      { s with ce := false, phase := .busy (.send len data) .timeout, history := s.history ++ [.pin false] } := by
  simp only [exec, execSend, State.pos_busy hp, drivePin_eq]

theorem exec_send_timeout (hp : s.phase = .busy (.send len data) .timeout) :
    exec (.send len data) s = .next (s.responded { result := .timeout }) := by
  simp only [exec, execSend, State.pos_busy hp, raise_eq]

end

/-! ## The statements about one step -/

/-- Settles O32: the branch at `etx` is on the snapshot's bit 0, and the other positions have one action each. -/
theorem sendBusyCheckAndEnterTransmit : Obligations.SendBusyCheckAndEnterTransmit :=
  fun _ _ _ _ _ => ⟨exec_send_entry, exec_send_etx_full, exec_send_etx_free, exec_send_etw, exec_send_etp⟩

/-- Settles O33: each of the three ways leads to the loop head with `off` bytes acknowledged, which branches on
`off < len`. -/
theorem sendWritesTheNextChunk : Obligations.SendWritesTheNextChunk := by
  intro s len data off w hdata hway
  have hloop : exec (.send len data) s = sendLoop len data off { s with work := w } := by
    obtain ⟨hp, rfl, rfl⟩ | ⟨off', n, hp, hoff, hn, rfl, rfl⟩ |
      ⟨off', n, st, k, hp, hkeep, hoff, hn, hst, hk, h4, h5, rfl, rfl⟩ := hway
    case inl => exact exec_send_chunk hp
    case inr.inl => exact exec_send_ack hp hoff hn
    case inr.inr =>
      rw [exec_send_test hp hst hk, sendTest_txDs h4 h5, hkeep, if_neg Bool.false_ne_true]
      exact sendNext_eq hoff hn
  rw [hloop]
  exact ⟨fun hlt => sendLoop_below hlt hdata, sendLoop_past⟩

/-- Settles O34: the tests at each snapshot, in their order. -/
theorem sendPollTests : Obligations.SendPollTests :=
  fun _ _ _ _ _ =>
    ⟨exec_send_poll, exec_send_test_maxRt, exec_send_test_txDs,
      fun _ hp hst hk h4 h5 => exec_send_test_limit hp hst hk h4 h5, exec_send_test_yield, exec_send_yld⟩

/-- Settles O35: one action at each position of the recovery, and the two shared ends of an operation. -/
theorem sendRecoveryAndEnd : Obligations.SendRecoveryAndEnd :=
  fun _ _ _ =>
    ⟨exec_send_flush, exec_send_standby, exec_send_timeout, exec_ret_bareOk rfl, exec_fail_responds rfl nofun⟩

end Sys2Proof.Machine
end

section
/-! PROOFS. SEND as a run: the polls of a chunk (O47). -/

namespace Sys2Proof.Machine

open Sys2Proof

/-! ## Runs on scripts -/

/-- The environment after answers and looks at the hook taken from its scripts: the given scripts are left, and the
host does nothing meanwhile. -/
def Env.took (e : Env) (bus : List BusAnswer) (answers : Nat) (hook : List Bool) (looks : Nat) : Env :=
  e.advanced e.host bus answers hook looks

@[simp] theorem Env.took_took (e : Env) (bus bus' : List BusAnswer) (a a' : Nat) (hook hook' : List Bool) (n n' : Nat) :
    (e.took bus a hook n).took bus' a' hook' n' = e.took bus' (a + a') hook' (n + n') := by
  simp [Env.took, Env.advanced, Nat.add_assoc]

theorem Env.took_nothing (e : Env) : e.took e.bus 0 e.hook 0 = e := rfl

/-- The state when a run of instruction i has come to position l with the given registers and environment, the given
events in between and nothing else changed. -/
def State.ranTo (s : State) (i : Instr) (l : Label) (work : Work) (env : Env) (events : List Event) : State :=
  { s with phase := .busy i l, work := work, env := env, history := s.history ++ events }

section
variable {s t : State} {i : Instr} {l l' next : Label} {w w' : Work} {e e' : Env} {events events' : List Event}
  {bus bus' : List BusAnswer} {hook hook' : List Bool}

@[simp] theorem State.ranTo_work : (s.ranTo i l w e events).work = w := rfl

@[simp] theorem State.ranTo_ranTo :
    (s.ranTo i l w e events).ranTo i l' w' e' events' = s.ranTo i l' w' e' (events ++ events') := by
  simp [State.ranTo]

theorem State.ranTo_nothing (hp : s.phase = .busy i l) : s.ranTo i l s.work s.env [] = s := by
  simp [State.ranTo, ← hp]

/-- Instruction i stands at position l with no mark set and no other request to be put, and the device's answers and
the returns of the hook come from the given scripts. -/
structure State.Scripted (s : State) (i : Instr) (l : Label) (bus : List BusAnswer) (hook : List Bool) : Prop where
  unmarked : s.unmarked
  phase : s.phase = .busy i l
  host : keepsProtocol s.env.host = true
  bus : s.env.bus = bus
  hook : s.env.hook = hook

theorem State.Scripted.ranTo (h : s.Scripted i l bus hook) {a n : Nat} :
    (s.ranTo i l' w (s.env.took bus' a hook' n) events).Scripted i l' bus' hook' :=
  ⟨h.unmarked, rfl, h.host, rfl, rfl⟩

/-- A run of j steps and then one of k are a run of n. -/
theorem runs_trans {j k n : Nat} {s t u : State} (h : runs j s = .next t) (h' : runs k t = .next u)
    (hn : n = j + k) : runs n s = .next u :=
  hn ▸ (runs_add h).trans h'

/-- Two parts of an instruction's run are one. -/
theorem runs_ranTo {a a' n n' j k m : Nat} (h : runs j s = .next (t.ranTo i l w (e.took bus a hook n) events))
    (h' : runs k (t.ranTo i l w (e.took bus a hook n) events) = .next
      ((t.ranTo i l w (e.took bus a hook n) events).ranTo i l' w' ((e.took bus a hook n).took bus' a' hook' n')
        events'))
    (hm : m = j + k) :
    runs m s = .next (t.ranTo i l' w' (e.took bus' (a + a') hook' (n + n')) (events ++ events')) := by
  rw [runs_trans h h' hm, State.ranTo_ranTo, Env.took_took]

theorem State.Scripted.runs_one (h : s.Scripted i l bus hook) (he : exec i s = .next t) : runs 1 s = .next t :=
  runs_busy h.unmarked h.phase h.host he

/-- A step that is a transaction takes the next scripted answer. -/
theorem State.Scripted.runs_transaction {f : Frame} {rx : List Byte} {work : List Byte → Work}
    (h : s.Scripted i l (.ok rx :: bus) hook)
    (he : exec i s = .next (({ s with work := w } : State).transacted i f next work))
    (hrx : rx.length = rxCount f) :
    runs 1 s = .next (s.ranTo i next (work rx) (s.env.took bus 1 hook 0) [.bus f (.ok rx)]) := by
  have hanswer : s.env.busAnswer f = .ok rx := busAnswer_scripted h.bus hrx
  rw [h.runs_one he, transacted_ok (s := { s with work := w }) hanswer]
  simp [State.ranTo, Env.popBus, Env.took, Env.advanced, h.bus, h.hook]

end

section
variable {s : State} {len k : Nat} {data : List Byte} {b : Byte} {bus : List BusAnswer} {hook : List Bool}

/-! ## The polls of a chunk (R165) -/

theorem quietStatus_iff {st : Byte} : quietStatus st = true ↔ st.getLsbD 4 = false ∧ st.getLsbD 5 = false := by
  simp [quietStatus]

theorem ackStatus_iff {st : Byte} : ackStatus st = true ↔ st.getLsbD 4 = false ∧ st.getLsbD 5 = true := by
  simp [ackStatus]

@[simp] theorem quietPolls_nil (command : Byte) : quietPolls command [] = [] := rfl

@[simp] theorem quietPolls_cons (command : Byte) (polls : List Byte) :
    quietPolls command (b :: polls) =
      .bus [wr [command], rd 1] (.ok [b]) :: .yield :: quietPolls command polls := rfl

/-- From its yield SEND reads STATUS once the hook returns. -/
theorem runs_send_yld (h : s.Scripted (.send len data) .yld (.ok [b] :: bus) (true :: hook)) :
    runs 1 s = .next
      (s.ranTo (.send len data) .test { s.work with st := some b } (s.env.took bus 1 hook 1)
        [.bus [wr [0x07#8], rd 1] (.ok [b])]) := by
  have hreturned : s.env.hookReturned = true := by simp [Env.hookReturned, h.hook]
  have hanswer : s.popHook.env.busAnswer [wr [0x07#8], rd 1] = .ok [b] :=
    busAnswer_scripted (e := s.popHook.env) h.bus rfl
  rw [h.runs_one (exec_send_yld h.phase hreturned), transacted_ok hanswer]
  simp [State.ranTo, State.popHook, Env.popBus, Env.took, Env.advanced, h.bus, h.hook]

/-- A snapshot with neither flag, below the poll limit, leads into the yield. -/
theorem runs_send_test_yield (h : s.Scripted (.send len data) .test bus hook) (hst : s.work.st = some b)
    (hk : s.work.polls = some k) (hquiet : quietStatus b = true) (hlimit : BelowPollLimit s.par (k + 1)) :
    runs 1 s = .next
      (s.ranTo (.send len data) .yld { s.work with polls := some (k + 1) } (s.env.took bus 0 hook 0) [.yield]) := by
  obtain ⟨h4, h5⟩ := quietStatus_iff.mp hquiet
  obtain rfl := h.bus
  obtain rfl := h.hook
  exact h.runs_one (exec_send_test_yield h.phase hst hk h4 h5 hlimit)

/-- From yield to yield: one snapshot with neither flag, below the poll limit. -/
theorem runs_send_quietPoll (h : s.Scripted (.send len data) .yld (.ok [b] :: bus) (true :: hook))
    (hk : s.work.polls = some k) (hquiet : quietStatus b = true) (hlimit : BelowPollLimit s.par (k + 1)) :
    runs 2 s = .next
      (s.ranTo (.send len data) .yld { s.work with st := some b, polls := some (k + 1) } (s.env.took bus 1 hook 1)
        [.bus [wr [0x07#8], rd 1] (.ok [b]), .yield]) :=
  runs_ranTo (runs_send_yld h) (runs_send_test_yield h.ranTo rfl hk hquiet hlimit) rfl

/-- From yield to yield: any number of snapshots with neither flag, below the poll limit. -/
theorem runs_send_quietPolls {polls : List Byte}
    (h : s.Scripted (.send len data) .yld (pollAnswers polls ++ bus) (List.replicate polls.length true ++ hook))
    (hk : s.work.polls = some k) (hquiet : polls.all quietStatus = true)
    (hlimit : BelowPollLimit s.par (k + polls.length)) :
    runs (2 * polls.length) s = .next
      (s.ranTo (.send len data) .yld
        { s.work with st := polls.getLast?.or s.work.st, polls := some (k + polls.length) }
        (s.env.took bus polls.length hook polls.length) (quietPolls 0x07#8 polls)) := by
  induction polls generalizing s k with
  | nil =>
    obtain rfl : s.env.bus = bus := h.bus
    obtain rfl : s.env.hook = hook := h.hook
    simp [Env.took_nothing, ← hk, State.ranTo_nothing h.phase]
  | cons b polls ih =>
    rw [List.all_cons, Bool.and_eq_true] at hquiet
    obtain ⟨hb, hrest⟩ := hquiet
    have hcount : k + (b :: polls).length = k + 1 + polls.length := by rw [List.length_cons]; omega
    rw [hcount] at hlimit ⊢
    have hfirst := runs_send_quietPoll h hk hb (hlimit.mono (by omega))
    refine (runs_ranTo hfirst (ih h.ranTo rfl hrest hlimit) (Nat.add_comm _ 2)).trans ?_
    simp [List.getLast?_cons, Nat.add_comm 1]

end

/-- Settles O47: SEND goes from yield to yield, poll by poll, and no poll reaches a limit. -/
theorem sendPollsWithoutBound : Obligations.SendPollsWithoutBound := by
  intro s len data polls more hook k hu hh hlimit hp hk hne hquiet hbus hhook
  have hlast : polls.getLast?.or s.work.st = polls.getLast? := by simp [List.getLast?_eq_some_getLast hne]
  have hruns := runs_send_quietPolls ⟨hu, hp, hh, hbus, hhook⟩ hk hquiet (by simp [BelowPollLimit, hlimit])
  rw [hlast] at hruns
  simpa [State.ranTo, Env.took, ← hp] using hruns

end Sys2Proof.Machine
end

section
/-! PROOFS. SEND from request to response: the acknowledged chunks, the completion (O45) and the recovery (O46). -/

namespace Sys2Proof.Machine

open Sys2Proof

section
variable {s : State} {data polls : List Byte} {last : Byte} {bus : List BusAnswer} {hook : List Bool}
  {len off j k : Nat} {l : Label}

/-! ## One chunk (R163–R167) -/

/-- The polls of a chunk: any number of snapshots with neither flag, below the poll limit, and then another one. -/
theorem runs_send_polls
    (h : s.Scripted (.send len data) .poll (pollAnswers polls ++ .ok [last] :: bus)
      (List.replicate polls.length true ++ hook))
    (hquiet : polls.all quietStatus = true) (hlimit : BelowPollLimit s.par polls.length) :
    runs (2 * polls.length + 1) s = .next
      (s.ranTo (.send len data) .test { s.work with st := some last, polls := some polls.length }
        (s.env.took bus (polls.length + 1) hook polls.length)
        (quietPolls 0x07#8 polls ++ [.bus [wr [0x07#8], rd 1] (.ok [last])])) := by
  cases polls with
  | nil => exact h.runs_transaction (exec_send_poll h.phase) rfl
  | cons b polls =>
    rw [List.all_cons, Bool.and_eq_true] at hquiet
    obtain ⟨hb, hrest⟩ := hquiet
    rw [List.length_cons] at hlimit
    rw [List.length_cons, List.replicate_succ', List.append_assoc] at h
    have hread := h.runs_transaction (exec_send_poll h.phase) rfl
    have hyield := runs_ranTo hread (runs_send_test_yield h.ranTo rfl rfl hb (hlimit.mono (by omega))) rfl
    have hpolls := runs_ranTo hyield (runs_send_quietPolls h.ranTo rfl hrest (hlimit.mono (by omega))) rfl
    refine (runs_ranTo hpolls (runs_send_yld h.ranTo) ?_).trans ?_
    · rw [List.length_cons]; omega
    · simp [Nat.add_comm 1]

/-- SEND's loop head with `off` bytes acknowledged: at the start, or after a chunk's TX_DS clear (R163, R167). -/
def LoopHead (off : Nat) (l : Label) (w : Work) : Prop :=
  l = .chunk ∧ off = 0 ∨ l = .ack ∧ ∃ off' n, w.off = some off' ∧ w.n = some n ∧ off = off' + n.toNat

theorem exec_send_loopHead (hp : s.phase = .busy (.send len data) l) (hhead : LoopHead off l s.work) :
    exec (.send len data) s = sendLoop len data off s := by
  obtain ⟨rfl, rfl⟩ | ⟨rfl, off', n, hoff, hn, rfl⟩ := hhead
  · exact exec_send_chunk hp
  · exact exec_send_ack hp hoff hn

/-- The registers of SEND when the polls of chunk j have ended with the given snapshot. -/
def Work.chunkPolled (w : Work) (len j : Nat) (st : Byte) (polls : Nat) : Work :=
  { w with off := some (32 * j), n := some (BitVec.ofNat 6 (min 32 (len - 32 * j))), st := some st
           polls := some polls }

/-- A chunk goes out, and is polled until another snapshot than one with neither flag. -/
theorem runs_send_chunk
    (h : s.Scripted (.send data.length data) l (.ok [] :: (pollAnswers polls ++ .ok [last] :: bus))
      (List.replicate polls.length true ++ hook))
    (hhead : LoopHead (32 * j) l s.work) (hlt : 32 * j < data.length)
    (hquiet : polls.all quietStatus = true) (hlimit : BelowPollLimit s.par polls.length) :
    runs (2 * polls.length + 2) s = .next
      (s.ranTo (.send data.length data) .test (s.work.chunkPolled data.length j last polls.length)
        (s.env.took bus (polls.length + 2) hook polls.length)
        (.bus [wr [0xA0#8], wr ((data.drop (32 * j)).take 32)] (.ok []) ::
          (quietPolls 0x07#8 polls ++ [.bus [wr [0x07#8], rd 1] (.ok [last])]))) := by
  have hchunk : (data.drop (32 * j)).take (min 32 (data.length - 32 * j)) = (data.drop (32 * j)).take 32 := by
    simp [List.take_eq_take_iff]
  have hexec := (exec_send_loopHead h.phase hhead).trans (sendLoop_below hlt rfl)
  rw [hchunk] at hexec
  refine (runs_ranTo (h.runs_transaction hexec rfl) (runs_send_polls h.ranTo hquiet hlimit)
    (Nat.add_comm _ 1)).trans ?_
  simp [Work.chunkPolled, Nat.add_comm 1]

/-- An acknowledged chunk leads back to the loop head. -/
theorem runs_send_ackedChunk
    (h : s.Scripted (.send data.length data) l (.ok [] :: (pollAnswers polls ++ .ok [last] :: .ok [] :: bus))
      (List.replicate polls.length true ++ hook))
    (hhead : LoopHead (32 * j) l s.work) (hlt : 32 * j < data.length) (hclear : s.par.clearTxDs = true)
    (hquiet : polls.all quietStatus = true) (hlimit : BelowPollLimit s.par polls.length)
    (hack : ackStatus last = true) :
    runs (2 * polls.length + 3) s = .next
      (s.ranTo (.send data.length data) .ack (s.work.chunkPolled data.length j last (polls.length + 1))
        (s.env.took bus (polls.length + 3) hook polls.length) (sendEvents (data.drop (32 * j)) [(polls, last)])) := by
  obtain ⟨h4, h5⟩ := ackStatus_iff.mp hack
  refine (runs_ranTo (runs_send_chunk h hhead hlt hquiet hlimit)
    (h.ranTo.runs_transaction (exec_send_test_txDs rfl rfl rfl h4 h5 hclear) rfl) rfl).trans ?_
  simp [Work.chunkPolled, sendEvents]

theorem loopHead_chunkPolled (w : Work) (st : Byte) (polls : Nat) (hlt : 32 * j < len) :
    LoopHead (min len (32 * (j + 1))) .ack (w.chunkPolled len j st polls) := by
  have hn : (BitVec.ofNat 6 (min 32 (len - 32 * j))).toNat = min 32 (len - 32 * j) := chunkLen_toNat len (32 * j)
  refine .inr ⟨rfl, _, _, rfl, rfl, ?_⟩
  omega

/-! ## Acknowledged chunks -/

theorem sendEvents_cons (polls : List Byte) (a : Byte) (acks : AckLog) :
    sendEvents data ((polls, a) :: acks) = sendEvents data [(polls, a)] ++ sendEvents (data.drop 32) acks := by
  simp [sendEvents]

theorem acknowledged_cons {p : Params} {acks : AckLog} :
    acknowledged p ((polls, last) :: acks) = true ↔
      (polls.all quietStatus = true ∧ ackStatus last = true ∧ BelowPollLimit p polls.length) ∧
        acknowledged p acks = true := by
  cases h : p.txPollLimit <;> simp [acknowledged, BelowPollLimit, h, and_assoc]

/-- From loop head to loop head: any number of acknowledged chunks, j before them. -/
theorem runs_send_acks {acks : AckLog}
    (h : s.Scripted (.send data.length data) l (sendAnswers acks ++ bus)
      (List.replicate (sendYields acks) true ++ hook))
    (hhead : LoopHead (min data.length (32 * j)) l s.work) (hlen : 32 * (j + acks.length) < data.length + 32)
    (hclear : s.par.clearTxDs = true) (hacks : acknowledged s.par acks = true) :
    ∃ l' w', LoopHead (min data.length (32 * (j + acks.length))) l' w' ∧
      runs (3 * acks.length + 2 * sendYields acks) s = .next
        (s.ranTo (.send data.length data) l' w'
          (s.env.took bus (3 * acks.length + sendYields acks) hook (sendYields acks))
          (sendEvents (data.drop (32 * j)) acks)) := by
  induction acks generalizing s l j with
  | nil =>
    refine ⟨l, s.work, hhead, ?_⟩
    obtain rfl : s.env.bus = bus := h.bus
    obtain rfl : s.env.hook = hook := h.hook
    simp [sendEvents, sendYields, Env.took_nothing, State.ranTo_nothing h.phase]
  | cons c acks ih =>
    obtain ⟨polls, a⟩ := c
    obtain ⟨⟨hquiet, hack, hlimit⟩, hrest⟩ := acknowledged_cons.mp hacks
    have hcount : j + ((polls, a) :: acks).length = j + 1 + acks.length := by rw [List.length_cons]; omega
    rw [hcount] at hlen ⊢
    have hlt : 32 * j < data.length := by omega
    rw [min_eq_right hlt.le] at hhead
    have hscript : s.Scripted (.send data.length data) l
        (.ok [] :: (pollAnswers polls ++ .ok [a] :: .ok [] :: (sendAnswers acks ++ bus)))
        (List.replicate polls.length true ++ (List.replicate (sendYields acks) true ++ hook)) := by
      rw [sendAnswers, sendYields, List.replicate_add, List.append_assoc] at h
      simpa only [List.cons_append, List.append_assoc] using h
    have hfirst := runs_send_ackedChunk hscript hhead hlt hclear hquiet hlimit hack
    obtain ⟨l', w', hhead', hruns⟩ := ih hscript.ranTo
      (loopHead_chunkPolled s.work a (polls.length + 1) hlt) hlen hclear hrest
    refine ⟨l', w', hhead', (runs_ranTo hfirst hruns ?_).trans ?_⟩
    · rw [List.length_cons, sendYields]; omega
    · have hanswers : polls.length + 3 + (3 * acks.length + sendYields acks)
          = 3 * (acks.length + 1) + (polls.length + sendYields acks) := by omega
      have hdrop : (data.drop (32 * j)).drop 32 = data.drop (32 * (j + 1)) := by rw [List.drop_drop, Nat.mul_succ]
      rw [sendEvents_cons polls a acks, hdrop, sendYields, List.length_cons, hanswers]

/-! ## The two ends (R166, R169) -/

/-- A pin write and then a response without output bytes. -/
theorem State.Scripted.runs_pin_response {i : Instr} {next : Label} {w : Work} {level : Bool} {r : Response}
    (h : s.Scripted i l bus hook)
    (he : exec i s = .next
      { s with ce := level, work := w, phase := .busy i next, history := s.history ++ [.pin level] })
    (hresponds : ∀ {t : State}, t.phase = .busy i next → exec i t = .next (t.responded r)) :
    runs 2 s = .next
      { s with ce := level, phase := .idle, work := {}, history := s.history ++ [.pin level, .response r] } := by
  rw [runs_busy h.unmarked h.phase h.host he]
  refine Eq.trans (runs_busy h.unmarked rfl h.host (hresponds rfl)) ?_
  simp [State.responded, Work.empty]

/-- Past the last chunk chip-enable falls, and the response is Ok. -/
theorem runs_send_completion (h : s.Scripted (.send len data) l bus hook) (hhead : LoopHead off l s.work)
    (hle : len ≤ off) :
    runs 2 s = .next
      { s with ce := false, phase := .idle, work := {}
               history := s.history ++ [.pin false, .response { result := .ok }] } :=
  h.runs_pin_response ((exec_send_loopHead h.phase hhead).trans (sendLoop_past hle)) (exec_ret_bareOk rfl)

/-- MAX_RT and the poll limit both clear the flags on the way to the recovery. -/
theorem exec_send_test_recover (hp : s.phase = .busy (.send len data) .test) (hst : s.work.st = some last)
    (hk : s.work.polls = some k)
    (hends : last.getLsbD 4 = true ∨ (quietStatus last = true ∧ s.par.txPollLimit = some (k + 1))) :
    let w : Work := { s.work with polls := some (k + 1) }
    exec (.send len data) s = .next
      (({ s with work := w } : State).transacted (.send len data) [wr [0x27#8], wr [0x70#8]] .flush fun _ => w) := by
  obtain h4 | ⟨hquiet, hlimit⟩ := hends
  · exact exec_send_test_maxRt hp hst hk h4
  · obtain ⟨h4, h5⟩ := quietStatus_iff.mp hquiet
    exact exec_send_test_limit hp hst hk h4 h5 hlimit le_rfl

/-- The recovery: flags cleared, transmit FIFO flushed, chip-enable low, Timeout. -/
theorem runs_send_recovery (h : s.Scripted (.send len data) .test (.ok [] :: .ok [] :: bus) hook)
    (hst : s.work.st = some last) (hk : s.work.polls = some k)
    (hends : last.getLsbD 4 = true ∨ (quietStatus last = true ∧ s.par.txPollLimit = some (k + 1))) :
    runs 4 s = .next
      { s with ce := false, phase := .idle, work := {}, env := s.env.took bus 2 hook 0
               history := s.history ++
                 [.bus [wr [0x27#8], wr [0x70#8]] (.ok []), .bus [wr [0xE1#8]] (.ok []), .pin false,
                  .response { result := .timeout }] } := by
  have hclears := h.runs_transaction (exec_send_test_recover h.phase hst hk hends) rfl
  have hflushes := runs_ranTo hclears (h.ranTo.runs_transaction (exec_send_flush rfl) rfl) rfl
  refine (runs_trans hflushes (h.ranTo.runs_pin_response (exec_send_standby rfl) exec_send_timeout) rfl).trans ?_
  simp [State.ranTo]

/-! ## The start (R161, R162) -/

/-- From entry to the first loop head: STATUS without TX_FULL, and ENTER_TRANSMIT. -/
theorem runs_send_enterTransmit {st0 c : Byte}
    (h : s.Scripted (.send len data) .entry (.ok [st0] :: .ok [c] :: .ok [] :: bus) hook)
    (hfree : st0.getLsbD 0 = false) :
    runs 4 s = .next
      (({ s with ce := true } : State).ranTo (.send len data) .chunk { s.work with st := some st0, cfg := some c }
        (s.env.took bus 3 hook 0)
        [.bus [wr [0x07#8], rd 1] (.ok [st0]), .bus [wr [0x00#8], rd 1] (.ok [c]),
         .bus [wr [0x20#8], wr [c &&& 0xFE#8]] (.ok []), .pin true]) := by
  have hstatus := h.runs_transaction (exec_send_entry h.phase) rfl
  have hread := runs_ranTo hstatus (h.ranTo.runs_transaction (exec_send_etx_free rfl rfl hfree) rfl) rfl
  have hwrite := runs_ranTo hread (h.ranTo.runs_transaction (exec_send_etw rfl rfl) rfl) rfl
  refine (runs_trans hwrite (h.ranTo.runs_one (exec_send_etp rfl)) rfl).trans ?_
  simp [State.ranTo]

/-- The events from the request to the first loop head. -/
def sendStart (data : List Byte) (st0 c : Byte) : List Event :=
  [.request { opc := 0x20#8, len := data.length, data := data }, .bus [wr [0x07#8], rd 1] (.ok [st0]),
   .bus [wr [0x00#8], rd 1] (.ok [c]), .bus [wr [0x20#8], wr [c &&& 0xFE#8]] (.ok []), .pin true]

/-- The state at SEND's first loop head, the host left with the given acts and the device with the given answers. -/
def State.sendStarted (s : State) (data : List Byte) (st0 c : Byte) (rest : List HostAct) (bus : List BusAnswer) :
    State :=
  ({ s with ce := true } : State).ranTo (.send data.length data) .chunk { s.work with st := some st0, cfg := some c }
    ((s.env.withHost rest).took bus 3 s.env.hook 0) (sendStart data st0 c)

section
variable {st0 c : Byte} {rest : List HostAct} {acks : AckLog}

/-- From the request to the first loop head. -/
theorem runs_send_start (hready : s.ready { opc := 0x20#8, len := data.length, data := data } rest)
    (hlen : data.length < 2 ^ s.par.lenBits) (hfree : st0.getLsbD 0 = false)
    (hbus : s.env.bus = .ok [st0] :: .ok [c] :: .ok [] :: bus) :
    runs 5 s = .next (s.sendStarted data st0 c rest bus) := by
  have hdecode : decodeRequest { opc := 0x20#8, len := data.length, data := data } = .ok (.send data.length data) :=
    if_pos rfl
  have hwf : (Instr.send data.length data).wf s.par = true := by simp [Instr.wf, hlen]
  have ⟨hu, _, _, hrest⟩ := hready
  rw [runs_succ (step_ready hready hdecode hwf)]
  refine Eq.trans (runs_send_enterTransmit (hook := s.env.hook) ⟨hu, rfl, hrest, hbus, rfl⟩ hfree) ?_
  simp [State.sendStarted, sendStart, State.ranTo]

/-- From the request to the loop head after any number of acknowledged chunks. -/
theorem runs_send_start_acks
    (hready : s.ready { opc := 0x20#8, len := data.length, data := data } rest)
    (hlen : data.length < 2 ^ s.par.lenBits) (hclear : s.par.clearTxDs = true) (hfree : st0.getLsbD 0 = false)
    (hchunks : 32 * acks.length < data.length + 32) (hacks : acknowledged s.par acks = true)
    (hbus : s.env.bus = .ok [st0] :: .ok [c] :: .ok [] :: (sendAnswers acks ++ bus))
    (hhook : s.env.hook = List.replicate (sendYields acks) true ++ hook) :
    ∃ l w, LoopHead (min data.length (32 * acks.length)) l w ∧
      runs (5 + (3 * acks.length + 2 * sendYields acks)) s = .next
        (({ s with ce := true } : State).ranTo (.send data.length data) l w
          ((s.env.withHost rest).took bus (3 + (3 * acks.length + sendYields acks)) hook (sendYields acks))
          (sendStart data st0 c ++ sendEvents data acks)) := by
  have hstart := runs_send_start hready hlen hfree hbus
  have ⟨hu, _, _, hrest⟩ := hready
  obtain ⟨l, w, hhead, hruns⟩ := runs_send_acks (s := s.sendStarted data st0 c rest (sendAnswers acks ++ bus))
    (j := 0) ⟨hu, rfl, hrest, rfl, hhook⟩ (.inl ⟨rfl, Nat.min_zero _⟩) (by rwa [Nat.zero_add]) hclear hacks
  rw [Nat.zero_add] at hhead
  refine ⟨l, w, hhead, (runs_ranTo hstart hruns rfl).trans ?_⟩
  simp

end

end

/-! ## From request to response -/

theorem Env.withHost_took (e : Env) (host : List HostAct) (bus : List BusAnswer) (a : Nat) (hook : List Bool)
    (n : Nat) : (e.withHost host).took bus a hook n = e.advanced host bus a hook n := rfl

/-- Settles O45: the chunks of the log are all the chunks of the buffer, so that the loop head after them is past
the last one. -/
theorem sendDeliversTheWholeBuffer : Obligations.SendDeliversTheWholeBuffer := by
  intro s data st0 c acks rest more hook r hready hlen hclear hfree hcount hacks hbus hhook
  obtain ⟨l, w, hhead, hruns⟩ := runs_send_start_acks hready hlen hclear hfree (by omega) hacks hbus hhook
  have ⟨hu, hidle, _, hrest⟩ := hready
  refine (runs_trans hruns (runs_send_completion ⟨hu, rfl, hrest, rfl, rfl⟩ hhead (by omega)) (by omega)).trans ?_
  simp [State.ranTo, ← Env.withHost_took, sendStart, r, hidle, Nat.add_assoc]

/-- Settles O46: the loop head after the acknowledged chunks is before the chunk that ends in the recovery. -/
theorem sendTimesOutAndRecovers : Obligations.SendTimesOutAndRecovers := by
  intro s data st0 c acks polls last rest more hook r hready hlen hclear hfree hlt hacks hquiet hlimit hends hbus hhook
  rw [List.replicate_add, List.append_assoc] at hhook
  obtain ⟨l, w, hhead, hruns⟩ := runs_send_start_acks hready hlen hclear hfree (by omega) hacks hbus hhook
  rw [min_eq_right hlt.le] at hhead
  have ⟨hu, hidle, _, hrest⟩ := hready
  have hchunk := runs_ranTo hruns (runs_send_chunk ⟨hu, rfl, hrest, rfl, rfl⟩ hhead hlt hquiet hlimit) rfl
  have hrecovery := runs_trans hchunk
    (runs_send_recovery (hook := hook) ⟨hu, rfl, hrest, rfl, rfl⟩ rfl rfl hends) rfl
  have hsteps : 11 + 3 * acks.length + 2 * (sendYields acks + polls.length) =
      5 + (3 * acks.length + 2 * sendYields acks) + (2 * polls.length + 2) + 4 := by omega
  rw [hsteps, hrecovery]
  have hanswers : 3 + (3 * acks.length + sendYields acks) + (polls.length + 2) + 2 =
      7 + 3 * acks.length + sendYields acks + polls.length := by omega
  simp [State.ranTo, ← Env.withHost_took, sendStart, r, hidle, hanswers]

end Sys2Proof.Machine
end

section
/-! PROOFS. RECEIVE at each position of its pseudocode (O36 to O39). -/

namespace Sys2Proof.Machine

open Sys2Proof

/-! ## The transactions of the poller (R118, R122, R123) -/

theorem readFifoStatus_eq (i : Instr) (next : Label) (s : State) :
    readFifoStatus i next s =
      .next (s.transacted i [wr [0x17#8], rd 1] next fun rx => { s.work with fs := rx[0]? }) :=
  transact_eq i _ next keepFs s

theorem readRxPlWid_eq (i : Instr) (next : Label) (s : State) :
    readRxPlWid i next s =
      .next (s.transacted i [wr [0x60#8], rd 1] next fun rx => { s.work with w := rx[0]? }) :=
  transact_eq i _ next keepW s

theorem readRxPayload_eq (i : Instr) (w : Byte) (next : Label) (s : State) :
    readRxPayload i w next s =
      .next (s.transacted i (frameReadPayload w) next fun rx => { s.work with rd := some rx }) :=
  transact_eq i _ next keepRd s

/-! ## The deadline (R194) -/

/-- Between two readings of the tick's width the elapsed time is a subtraction without borrow. -/
theorem elapsed_eq {tickBits t0 : Nat} (now : Nat) (h : t0 < 2 ^ tickBits) :
    elapsed tickBits t0 now = (now + 2 ^ tickBits - t0) % 2 ^ tickBits := by
  have hcast : ((now + 2 ^ tickBits - t0 : Nat) : Int) = (now : Int) - t0 + 2 ^ tickBits := by
    rw [Nat.cast_sub (by omega)]
    push_cast
    omega
  have hmod : (((now + 2 ^ tickBits - t0) % 2 ^ tickBits : Nat) : Int) = ((now : Int) - t0) % 2 ^ tickBits := by
    rw [Int.natCast_mod, hcast, Nat.cast_pow, Nat.cast_ofNat, Int.add_emod_right]
  rw [elapsed, ← hmod, Int.toNat_natCast]

section
variable {s : State} {cap timeout t0 now : Nat} {cfg fs w b : Byte} {payload : List Byte}

/-! ## Entry (R191, R192) -/

theorem exec_receive_entry_small (hp : s.phase = .busy (.receive cap timeout) .entry) (hcap : cap < 32) :
    exec (.receive cap timeout) s = .next (s.responded { result := .invalidArgument }) := by
  simp only [exec, execReceive, State.pos_busy hp, raise_eq]
  exact if_pos hcap

theorem exec_receive_entry (hp : s.phase = .busy (.receive cap timeout) .entry) (hcap : 32 ≤ cap) :
    exec (.receive cap timeout) s = .next
      { s.tickRead with work := { s.work with t0 := some s.tickReading }
                        phase := .busy (.receive cap timeout) .erx } := by
  simp only [exec, execReceive, State.pos_busy hp]
  exact if_neg hcap.not_gt

/-! ## ENTER_RECEIVE and the poll reads (R193) -/

theorem exec_receive_erx (hp : s.phase = .busy (.receive cap timeout) .erx) :
    exec (.receive cap timeout) s = .next
      (s.transacted (.receive cap timeout) [wr [0x00#8], rd 1] .erw fun rx => { s.work with cfg := rx[0]? }) := by
  simp only [exec, execReceive, State.pos_busy hp, readConfig_eq]

theorem exec_receive_erw (hp : s.phase = .busy (.receive cap timeout) .erw) (hcfg : s.work.cfg = some cfg) :
    exec (.receive cap timeout) s = .next
      (s.transacted (.receive cap timeout) [wr [0x20#8], wr [cfg ||| 0x01#8]] .erp fun _ => s.work) := by
  simp only [exec, execReceive, State.pos_busy hp, writeConfig_eq _ _ _ hcfg, setPrimRx]

theorem exec_receive_erp (hp : s.phase = .busy (.receive cap timeout) .erp) :
    exec (.receive cap timeout) s = .next
      { s with ce := true, phase := .busy (.receive cap timeout) .poll, history := s.history ++ [.pin true] } := by
  simp only [exec, execReceive, State.pos_busy hp, drivePin_eq]

theorem exec_receive_poll (hp : s.phase = .busy (.receive cap timeout) .poll) :
    exec (.receive cap timeout) s = .next
      (s.transacted (.receive cap timeout) [wr [0x17#8], rd 1] .test fun rx => { s.work with fs := rx[0]? }) := by
  simp only [exec, execReceive, State.pos_busy hp, readFifoStatus_eq]

theorem exec_receive_yld (hp : s.phase = .busy (.receive cap timeout) .yld) (hhook : s.env.hookReturned = true) :
    exec (.receive cap timeout) s = .next
      (s.popHook.transacted (.receive cap timeout) [wr [0x17#8], rd 1] .test
        fun rx => { s.work with fs := rx[0]? }) := by
  simp only [exec, execReceive, State.pos_busy hp, awaitHook_returned hhook, readFifoStatus_eq, State.popHook_work]

/-! ## The tests after a poll read (R194, R195, R199, R200) -/

theorem exec_receive_test_pending (hp : s.phase = .busy (.receive cap timeout) .test) (hfs : s.work.fs = some fs)
    (hpending : fs.getLsbD 0 = false) :
    exec (.receive cap timeout) s = .next
      (s.transacted (.receive cap timeout) [wr [0x60#8], rd 1] .pay fun rx => { s.work with w := rx[0]? }) := by
  simp only [exec, execReceive, State.pos_busy hp, hfs, need_some, receiveTest, rxEmpty, hpending,
    Bool.false_eq_true, if_false, readRxPlWid_eq]

theorem exec_receive_test_yield (hp : s.phase = .busy (.receive cap timeout) .test) (hfs : s.work.fs = some fs)
    (hempty : fs.getLsbD 0 = true) (hforever : timeout = 0) :
    exec (.receive cap timeout) s = .next
      { s with phase := .busy (.receive cap timeout) .yld, history := s.history ++ [.yield] } := by
  simp only [exec, execReceive, State.pos_busy hp, hfs, need_some, receiveTest, rxEmpty, hempty, if_true,
    if_pos hforever]
  rfl

theorem exec_receive_test_tick (hp : s.phase = .busy (.receive cap timeout) .test) (hfs : s.work.fs = some fs)
    (hempty : fs.getLsbD 0 = true) (htimeout : timeout ≠ 0) :
    exec (.receive cap timeout) s = .next
      { s.tickRead with work := { s.work with now := some s.tickReading }
                        phase := .busy (.receive cap timeout) .deadline } := by
  simp only [exec, execReceive, State.pos_busy hp, hfs, need_some, receiveTest, rxEmpty, hempty, if_true,
    if_neg htimeout]
  rfl

theorem exec_receive_deadline (hp : s.phase = .busy (.receive cap timeout) .deadline) (ht0 : s.work.t0 = some t0)
    (hnow : s.work.now = some now) :
    exec (.receive cap timeout) s =
      if timeout ≤ elapsed s.par.tickBits t0 now then .next (s.responded { result := .timeout })
      else .next { s with phase := .busy (.receive cap timeout) .yld, history := s.history ++ [.yield] } := by
  simp only [exec, execReceive, State.pos_busy hp, ht0, hnow, need_some, deadlinePassed, decide_eq_true_eq, raise_eq]
  rfl

/-! ## The width, the payload and the end (R196, R197, R202) -/

theorem exec_receive_pay_invalid (hp : s.phase = .busy (.receive cap timeout) .pay) (hw : s.work.w = some w)
    (hwide : 32 < w.toNat) :
    exec (.receive cap timeout) s = .next { s with faultMark := s.faultMark.or (some .rxWidthInvalid) } := by
  simp only [exec, execReceive, State.pos_busy hp, hw, need_some]
  exact if_neg hwide.not_ge

theorem exec_receive_pay (hp : s.phase = .busy (.receive cap timeout) .pay) (hw : s.work.w = some w)
    (hle : w.toNat ≤ 32) :
    exec (.receive cap timeout) s = .next
      (s.transacted (.receive cap timeout) (frameReadPayload w) .sby fun rx => { s.work with rd := some rx }) := by
  simp only [exec, execReceive, State.pos_busy hp, hw, need_some, readRxPayload_eq]
  exact if_pos hle

theorem exec_receive_sby (hp : s.phase = .busy (.receive cap timeout) .sby) (hrd : s.work.rd = some (b :: payload)) :
    exec (.receive cap timeout) s = .next
      { s with ce := false, work := { s.work with s := some b, pipe := some (b.extractLsb' 1 3) }
               phase := .busy (.receive cap timeout) .ret, history := s.history ++ [.pin false] } := by
  have hpin : exec (.receive cap timeout) s =
      drivePin (.receive cap timeout) false .ret (s.setWork (unpackStatus (b :: payload) s.work)) := by
    simp only [exec, execReceive, State.pos_busy hp, hrd, need_some]
  exact hpin

/-- The payload of an answer is what follows its STATUS byte (R123). -/
theorem payloadBytes_cons (h : payload.length = w.toNat) : payloadBytes (b :: payload) w = payload :=
  List.take_of_length_le h.le

theorem exec_receive_ret {pipe : BitVec 3} (hp : s.phase = .busy (.receive cap timeout) .ret)
    (hrd : s.work.rd = some (b :: payload)) (hw : s.work.w = some w) (hlen : payload.length = w.toNat)
    (hpipe : s.work.pipe = some pipe) :
    exec (.receive cap timeout) s = .next
      { s.responded { result := .ok, pipe := some pipe, size := some (BitVec.ofNat 6 w.toNat), data := some payload }
        with out := s.out.writeBytes 0 payload } := by
  simp only [exec, execReceive, State.pos_busy hp, hrd, hw, hpipe, need_some, payloadBytes_cons hlen]
  exact returnOk_with_data rfl

end

/-! ## The statements about one step -/

/-- Settles O36: the entry step branches on the capacity. -/
theorem receiveCapacityAndStartTick : Obligations.ReceiveCapacityAndStartTick :=
  fun _ _ _ => ⟨exec_receive_entry_small, exec_receive_entry⟩

/-- Settles O37: the positions of ENTER_RECEIVE have one action each, and both polling positions read FIFO_STATUS. -/
theorem receiveEntersAndPolls : Obligations.ReceiveEntersAndPolls :=
  fun _ _ _ _ => ⟨exec_receive_erx, exec_receive_erw, exec_receive_erp, exec_receive_poll, exec_receive_yld⟩

/-- Settles O38: the tests at a poll in their order, the deadline's on the elapsed ticks. -/
theorem receivePollAndDeadline : Obligations.ReceivePollAndDeadline := by
  intro s cap timeout fs t0 now
  refine ⟨exec_receive_test_pending, exec_receive_test_yield, exec_receive_test_tick,
    fun hp ht0 hnow hfits _ hpassed => ?_, fun hp ht0 hnow hfits _ hbefore => ?_⟩
  · rw [exec_receive_deadline hp ht0 hnow, elapsed_eq now hfits, if_pos hpassed]
  · rw [exec_receive_deadline hp ht0 hnow, elapsed_eq now hfits, if_neg hbefore.not_ge]

/-- Settles O39: the width test, and one action at each position after it; a first fault mark is the one recorded. -/
theorem receiveWidthPayloadAndEnd : Obligations.ReceiveWidthPayloadAndEnd := by
  intro s cap timeout w b payload
  refine ⟨fun hp hw hwide hmark => ?_, exec_receive_pay, exec_receive_sby, fun _ => exec_receive_ret,
    exec_fail_responds rfl nofun⟩
  rw [exec_receive_pay_invalid hp hw hwide, hmark, Option.none_or]

end Sys2Proof.Machine
end

section
/-! PROOFS. The frames RECEIVE issues (O59). -/

namespace Sys2Proof.Machine

open Sys2Proof

/-! ## Outcomes whose transaction is one of RECEIVE's -/

/-- The command bytes of RECEIVE: the reads of CONFIG, FIFO_STATUS, the width and the payload, and the write of CONFIG
(R198). -/
def receiveCommands : List (Option Byte) := [some 0x00#8, some 0x20#8, some 0x17#8, some 0x60#8, some 0x61#8]

/-- If the outcome is a next state whose event after the given history is a transaction, its command byte is one of
RECEIVE's. -/
def IssuesReceiveCommand (h : List Event) (o : Out) : Prop :=
  ∀ t f a, o = .next t → t.history = h ++ [.bus f a] → commandOf f ∈ receiveCommands

section
variable {i : Instr} {l : Label} {s t : State}

theorem issuesReceiveCommand_of_noEvent (ht : t.history = s.history) : IssuesReceiveCommand s.history (.next t) := by
  intro u f a hu hh
  cases hu
  simp [ht] at hh

theorem issuesReceiveCommand_of_event {e : Event} (ht : t.history = s.history ++ [e]) (he : ∀ f a, e ≠ .bus f a) :
    IssuesReceiveCommand s.history (.next t) := by
  intro u f a hu hh
  cases hu
  have hbus : e = .bus f a := by simpa [ht] using hh
  exact absurd hbus (he f a)

theorem transacted_history (s : State) (i : Instr) (f : Frame) (next : Label) (work : List Byte → Work) :
    (s.transacted i f next work).history = s.history ++ [.bus f (s.env.busAnswer f)] := by
  cases ha : s.env.busAnswer f with
  | ok rx => rw [transacted_ok ha]
  | err => rw [transacted_err ha]

theorem issuesReceiveCommand_transact {f : Frame} {keep : List Byte → Work → Work}
    (hf : commandOf f ∈ receiveCommands) : IssuesReceiveCommand s.history (transact i f l keep s) := by
  intro t g a ht hh
  rw [transact_eq] at ht
  cases ht
  have hevent : f = g ∧ s.env.busAnswer f = a := by simpa [transacted_history] using hh
  obtain ⟨rfl, -⟩ := hevent
  exact hf

/-- Reading an unwritten register records a fault and issues nothing (R24). -/
theorem issuesReceiveCommand_need {α : Type} {r : Option α} {k : α → Out}
    (h : ∀ v, IssuesReceiveCommand s.history (k v)) : IssuesReceiveCommand s.history (need r s k) := by
  cases r with
  | some v => exact h v
  | none => exact issuesReceiveCommand_of_noEvent rfl

end

/-! ## One step of RECEIVE -/

theorem commandOf_frameWriteConfig (bytes : List Byte) : commandOf (frameWriteReg configAddr bytes) = some 0x20#8 := rfl

theorem commandOf_frameReadPayload (w : Byte) : commandOf (frameReadPayload w) = some 0x61#8 := by
  unfold frameReadPayload
  split <;> rfl

theorem receiveTest_issuesReceiveCommand (cap timeout : Nat) (fs : Byte) (s : State) :
    IssuesReceiveCommand s.history (receiveTest cap timeout fs s) := by
  unfold receiveTest
  split
  · split
    · exact issuesReceiveCommand_of_event rfl nofun
    · exact issuesReceiveCommand_of_event rfl nofun
  · exact issuesReceiveCommand_transact (by decide)

theorem exec_receive_issuesReceiveCommand (cap timeout : Nat) (s : State) :
    IssuesReceiveCommand s.history (exec (.receive cap timeout) s) := by
  simp only [exec, execReceive]
  cases s.pos with
  | entry =>
    dsimp only
    split
    · exact issuesReceiveCommand_of_event rfl nofun
    · exact issuesReceiveCommand_of_event rfl nofun
  | erx => exact issuesReceiveCommand_transact (by decide)
  | erw =>
    exact issuesReceiveCommand_need fun cfg =>
      issuesReceiveCommand_transact (by simp [commandOf_frameWriteConfig, receiveCommands])
  | erp => exact issuesReceiveCommand_of_event rfl nofun
  | poll => exact issuesReceiveCommand_transact (by decide)
  | test => exact issuesReceiveCommand_need fun fs => receiveTest_issuesReceiveCommand cap timeout fs s
  | deadline =>
    refine issuesReceiveCommand_need fun t0 => issuesReceiveCommand_need fun now => ?_
    split
    · exact issuesReceiveCommand_of_event rfl nofun
    · exact issuesReceiveCommand_of_event rfl nofun
  | yld =>
    dsimp only [awaitHook]
    split
    · exact issuesReceiveCommand_transact (s := s.popHook) (by decide)
    · exact issuesReceiveCommand_of_noEvent rfl
  | pay =>
    refine issuesReceiveCommand_need fun w => ?_
    split
    · exact issuesReceiveCommand_transact (by simp [commandOf_frameReadPayload, receiveCommands])
    · exact issuesReceiveCommand_of_noEvent rfl
  | sby => exact issuesReceiveCommand_need fun rx => issuesReceiveCommand_of_event rfl nofun
  | ret =>
    exact issuesReceiveCommand_need fun w => issuesReceiveCommand_need fun rx => issuesReceiveCommand_need fun pipe =>
      issuesReceiveCommand_of_event rfl nofun
  | fail => exact issuesReceiveCommand_of_event rfl nofun
  | _ => exact issuesReceiveCommand_of_noEvent rfl

theorem Stepped.issuesReceiveCommand {s t : State} {cap timeout : Nat} {l : Label} (h : Stepped s t)
    (hp : s.phase = .busy (.receive cap timeout) l) : IssuesReceiveCommand s.history (.next t) := by
  cases h with
  | runs i m hp' he =>
    cases hp.symm.trans hp'
    exact he ▸ exec_receive_issuesReceiveCommand cap timeout s
  | refuses r ht => exact issuesReceiveCommand_of_noEvent (ht ▸ rfl)
  | waits hp' _ | accepts _ _ hp' _ _ _ | illegal _ _ hp' _ _ | rejects _ hp' _ => cases hp.symm.trans hp'

/-- Settles O59: a step in RECEIVE is one of RECEIVE's, or records a refusal. -/
theorem receiveWritesOnlyConfig : Obligations.ReceiveWritesOnlyConfig := by
  intro s t cap timeout l f a hp hstep hh
  obtain ⟨-, s', rfl | rfl, hst⟩ := step_cases hstep
  · exact hst.issuesReceiveCommand hp t f a rfl hh
  · exact hst.issuesReceiveCommand hp t f a rfl hh

end Sys2Proof.Machine
end

section
/-! PROOFS. RECEIVE from request to response: with timeout 0 until data comes (O48), and with a timeout until the
deadline (O49). -/

namespace Sys2Proof.Machine

open Sys2Proof

/-! ## Tick readings (R232) -/

/-- The environment after one tick reading. -/
def Env.readTick (e : Env) : Env :=
  { e with tick := e.nextTick, tickSteps := e.tickSteps.tail, tickReads := e.tickReads + 1 }

/-- The environment after tick readings from its script: the given increments are left, and the count has moved by
so many ticks. -/
def Env.ticked (e : Env) (steps : List Nat) (passed reads : Nat) : Env :=
  { e with tick := e.tick + passed, tickSteps := steps, tickReads := e.tickReads + reads }

theorem State.tickRead_eq (s : State) :
    s.tickRead = { s with env := s.env.readTick, history := s.history ++ [.tick s.tickReading] } := rfl

theorem Env.nextTick_scripted {e : Env} {d : Nat} {steps : List Nat} (h : e.tickSteps = d :: steps) :
    e.nextTick = e.tick + d := by
  simp [Env.nextTick, h]

theorem Env.readTick_scripted {e : Env} {d : Nat} {steps : List Nat} (h : e.tickSteps = d :: steps) :
    e.readTick = e.ticked steps d 1 := by
  simp [Env.readTick, Env.ticked, Env.nextTick_scripted h, h]

theorem Env.readTick_took (e : Env) (host : List HostAct) (bus : List BusAnswer) (a : Nat) (hook : List Bool)
    (n : Nat) :
    (e.withHost host).readTick.took bus a hook n =
      { e.advanced host bus a hook n with
        tick := e.nextTick, tickSteps := e.tickSteps.tail, tickReads := e.tickReads + 1 } := rfl

theorem Env.readTick_took_ticked (e : Env) (host : List HostAct) (bus : List BusAnswer) (a : Nat) (hook : List Bool)
    (n : Nat) (steps : List Nat) (p r : Nat) :
    ((e.withHost host).readTick.took bus a hook n).ticked steps p r =
      { e.advanced host bus a hook n with
        tick := e.nextTick + p, tickSteps := steps, tickReads := e.tickReads + 1 + r } := rfl

@[simp] theorem Env.readTick_tick (e : Env) : e.readTick.tick = e.nextTick := rfl

@[simp] theorem Env.withHost_nextTick (e : Env) (host : List HostAct) : (e.withHost host).nextTick = e.nextTick := rfl

@[simp] theorem Env.ticked_tick (e : Env) (steps : List Nat) (p r : Nat) :
    (e.ticked steps p r).tick = e.tick + p := rfl

@[simp] theorem Env.took_tick (e : Env) (bus : List BusAnswer) (a : Nat) (hook : List Bool) (n : Nat) :
    (e.took bus a hook n).tick = e.tick := rfl

@[simp] theorem Env.ticked_ticked (e : Env) (steps steps' : List Nat) (p p' r r' : Nat) :
    (e.ticked steps p r).ticked steps' p' r' = e.ticked steps' (p + p') (r + r') := by
  simp [Env.ticked, Nat.add_assoc]

/-- Readings of the tick and answers from the other scripts do not meet. -/
@[simp] theorem Env.took_ticked (e : Env) (bus : List BusAnswer) (a : Nat) (hook : List Bool) (n : Nat)
    (steps : List Nat) (p r : Nat) :
    (e.ticked steps p r).took bus a hook n = (e.took bus a hook n).ticked steps p r := rfl

@[simp] theorem State.ranTo_env (s : State) (i : Instr) (l : Label) (w : Work) (e : Env) (events : List Event) :
    (s.ranTo i l w e events).env = e := rfl

@[simp] theorem State.ranTo_par (s : State) (i : Instr) (l : Label) (w : Work) (e : Env) (events : List Event) :
    (s.ranTo i l w e events).par = s.par := rfl

/-- A reading `p` ticks after the start shows `p` elapsed ticks, as long as `p` fits the tick's width (R194). -/
theorem elapsed_readings {tickBits c p : Nat} (hp : p < 2 ^ tickBits) :
    elapsed tickBits (c % 2 ^ tickBits) ((c + p) % 2 ^ tickBits) = p := by
  have hsub : (((c + p) % 2 ^ tickBits : Nat) : Int) - ((c % 2 ^ tickBits : Nat) : Int) ≡ (p : Int)
      [ZMOD 2 ^ tickBits] := by
    push_cast
    calc ((c : Int) + p) % 2 ^ tickBits - (c : Int) % 2 ^ tickBits
        ≡ (c : Int) + p - c [ZMOD 2 ^ tickBits] := (Int.mod_modEq _ _).sub (Int.mod_modEq _ _)
      _ = p := by ring
  have hfits : (p : Int) % 2 ^ tickBits = p := Int.emod_eq_of_lt (Int.natCast_nonneg p) (by exact_mod_cast hp)
  rw [elapsed, hsub.eq, hfits, Int.toNat_natCast]

section
variable {s : State} {cap timeout c0 p d looks : Nat} {c b fs w : Byte} {l : Label} {bus : List BusAnswer}
  {hook : List Bool} {steps : List Nat}

/-- A run and then one step more of the instruction in progress. -/
theorem runs_then_exec {t u : State} {i : Instr} {j m : Nat} (h : runs j s = .next t) (hu : t.unmarked)
    (hp : t.phase = .busy i l) (hh : keepsProtocol t.env.host = true) (he : exec i t = .next u) (hm : m = j + 1) :
    runs m s = .next u :=
  runs_trans h (runs_busy hu hp hh he) hm

/-! ## The start (R191–R193) -/

/-- From the first tick reading to the first poll: ENTER_RECEIVE. -/
theorem runs_receive_enterReceive
    (h : s.Scripted (.receive cap timeout) .erx (.ok [c] :: .ok [] :: bus) hook) :
    runs 3 s = .next
      (({ s with ce := true } : State).ranTo (.receive cap timeout) .poll { s.work with cfg := some c }
        (s.env.took bus 2 hook 0)
        [.bus [wr [0x00#8], rd 1] (.ok [c]), .bus [wr [0x20#8], wr [c ||| 0x01#8]] (.ok []), .pin true]) := by
  have hread := h.runs_transaction (exec_receive_erx h.phase) rfl
  have hwrite := runs_ranTo hread (h.ranTo.runs_transaction (exec_receive_erw rfl rfl) rfl) rfl
  refine (runs_trans hwrite (h.ranTo.runs_one (exec_receive_erp rfl)) rfl).trans ?_
  simp [State.ranTo]

/-- The events from the request to the first poll, the first tick reading being the given one. -/
def receiveStart (cap timeout v : Nat) (c : Byte) : List Event :=
  [.request { opc := 0x21#8, cap := cap, timeout := timeout }, .tick v, .bus [wr [0x00#8], rd 1] (.ok [c]),
   .bus [wr [0x20#8], wr [c ||| 0x01#8]] (.ok []), .pin true]

/-- The state before RECEIVE's first poll, the host left with the given acts and the device with the given answers. -/
def State.receiveStarted (s : State) (cap timeout : Nat) (c : Byte) (rest : List HostAct) (bus : List BusAnswer) :
    State :=
  ({ s with ce := true } : State).ranTo (.receive cap timeout) .poll
    { s.work with t0 := some s.tickReading, cfg := some c }
    ((s.env.withHost rest).readTick.took bus 2 s.env.hook 0) (receiveStart cap timeout s.tickReading c)

/-- From the request to the first poll. -/
theorem runs_receive_start {rest : List HostAct}
    (hready : s.ready { opc := 0x21#8, cap := cap, timeout := timeout } rest) (hcap : 32 ≤ cap)
    (hlen : cap < 2 ^ s.par.lenBits) (htimeout : timeout < 2 ^ s.par.tickBits)
    (hbus : s.env.bus = .ok [c] :: .ok [] :: bus) :
    runs 5 s = .next (s.receiveStarted cap timeout c rest bus) := by
  have hwf : (Instr.receive cap timeout).wf s.par = true := by simp [Instr.wf, hlen, htimeout]
  have ⟨hu, _, _, hrest⟩ := hready
  rw [runs_succ (step_ready hready rfl hwf)]
  refine Eq.trans (runs_busy hu rfl hrest (exec_receive_entry rfl hcap)) ?_
  refine Eq.trans (runs_receive_enterReceive (hook := s.env.hook) ⟨hu, rfl, hrest, hbus, rfl⟩) ?_
  simp [State.receiveStarted, receiveStart, State.ranTo, State.tickRead_eq, State.tickReading]

/-! ## The poll reads (R193) -/

/-- RECEIVE stands before a poll read, with so many looks at the hook to come before it: none before the first one,
and one in the yield when the hook returns at once. -/
def PollHead (looks : Nat) (l : Label) : Prop := l = .poll ∧ looks = 0 ∨ l = .yld ∧ looks = 1

theorem runs_receive_read (hhead : PollHead looks l)
    (h : s.Scripted (.receive cap timeout) l (.ok [b] :: bus) (List.replicate looks true ++ hook)) :
    runs 1 s = .next
      (s.ranTo (.receive cap timeout) .test { s.work with fs := some b } (s.env.took bus 1 hook looks)
        [.bus [wr [0x17#8], rd 1] (.ok [b])]) := by
  obtain ⟨rfl, rfl⟩ | ⟨rfl, rfl⟩ := hhead
  · exact h.runs_transaction (exec_receive_poll h.phase) rfl
  · have hreturned : s.env.hookReturned = true := by simp [Env.hookReturned, h.hook]
    have hanswer : s.popHook.env.busAnswer [wr [0x17#8], rd 1] = .ok [b] :=
      busAnswer_scripted (e := s.popHook.env) h.bus rfl
    rw [h.runs_one (exec_receive_yld h.phase hreturned), transacted_ok hanswer]
    simp [State.ranTo, State.popHook, Env.popBus, Env.took, Env.advanced, h.bus, h.hook]

/-! ## Polls without a deadline (R200) -/

theorem runs_receive_test_yield (h : s.Scripted (.receive cap 0) .test bus hook) (hfs : s.work.fs = some fs)
    (hempty : fs.getLsbD 0 = true) :
    runs 1 s = .next (s.ranTo (.receive cap 0) .yld s.work (s.env.took bus 0 hook 0) [.yield]) := by
  obtain rfl := h.bus
  obtain rfl := h.hook
  exact h.runs_one (exec_receive_test_yield h.phase hfs hempty rfl)

/-- Any number of empty polls and then another one, with no tick reading among them. -/
theorem runs_receive_quietPolls {polls : List Byte} (hhead : PollHead looks l)
    (h : s.Scripted (.receive cap 0) l (pollAnswers polls ++ .ok [fs] :: bus)
      (List.replicate (looks + polls.length) true ++ hook))
    (hempty : (polls.all fun x => x.getLsbD 0) = true) :
    runs (2 * polls.length + 1) s = .next
      (s.ranTo (.receive cap 0) .test { s.work with fs := some fs }
        (s.env.took bus (polls.length + 1) hook (looks + polls.length))
        (quietPolls 0x17#8 polls ++ [.bus [wr [0x17#8], rd 1] (.ok [fs])])) := by
  induction polls generalizing s l looks with
  | nil => exact runs_receive_read hhead h
  | cons b polls ih =>
    rw [List.all_cons, Bool.and_eq_true] at hempty
    obtain ⟨hb, hrest⟩ := hempty
    have hlooks : looks + (b :: polls).length = looks + (1 + polls.length) := by rw [List.length_cons]; omega
    rw [hlooks, List.replicate_add, List.append_assoc] at h
    have hyield := runs_ranTo (runs_receive_read hhead h) (runs_receive_test_yield h.ranTo rfl hb) rfl
    refine (runs_ranTo hyield (ih (.inr ⟨rfl, rfl⟩) h.ranTo hrest) ?_).trans ?_
    · rw [List.length_cons]; omega
    · simp [Nat.add_comm 1]

/-! ## The payload (R196, R197) -/

/-- Data pending: the width and the payload are read, chip-enable falls, and the response carries the payload. -/
theorem runs_receive_payload {payload : List Byte}
    (h : s.Scripted (.receive cap timeout) .test (.ok [w] :: .ok (b :: payload) :: bus) hook)
    (hfs : s.work.fs = some fs) (hpending : fs.getLsbD 0 = false) (hw : w.toNat ≤ 32)
    (hlen : payload.length = w.toNat) :
    runs 4 s = .next
      { s with
        ce := false, phase := .idle, work := {}, out := s.out.writeBytes 0 payload, env := s.env.took bus 2 hook 0
        history := s.history ++
          [.bus [wr [0x60#8], rd 1] (.ok [w]), .bus (frameReadPayload w) (.ok (b :: payload)), .pin false,
           .response { result := .ok, pipe := some (b.extractLsb' 1 3), size := some (BitVec.ofNat 6 w.toNat)
                       data := some payload }] } := by
  have hrx : (b :: payload).length = rxCount (frameReadPayload w) := by
    rw [rxCount_readPayload, List.length_cons, hlen, Nat.add_comm]
  have hwidth := h.runs_transaction (exec_receive_test_pending h.phase hfs hpending) rfl
  have hpayload := runs_ranTo hwidth (h.ranTo.runs_transaction (exec_receive_pay rfl rfl hw) hrx) rfl
  have hpin := runs_then_exec hpayload h.unmarked rfl h.host (exec_receive_sby rfl rfl) rfl
  refine (runs_then_exec hpin h.unmarked rfl h.host (exec_receive_ret rfl rfl rfl hlen rfl) rfl).trans ?_
  simp [State.ranTo, State.responded, Work.empty]

/-! ## Polls with a deadline (R194, R199) -/

/-- Two parts of an instruction's run are one, whatever they take from the environment. -/
theorem runs_ranTo_env {t : State} {i : Instr} {l' : Label} {w w' : Work} {e e' : Env} {events events' : List Event}
    {j k m : Nat} (h : runs j s = .next (t.ranTo i l w e events))
    (h' : runs k (t.ranTo i l w e events) = .next ((t.ranTo i l w e events).ranTo i l' w' e' events'))
    (hm : m = j + k) : runs m s = .next (t.ranTo i l' w' e' (events ++ events')) := by
  rw [runs_trans h h' hm, State.ranTo_ranTo]

/-- With a timeout an empty poll reads the tick. -/
theorem runs_receive_tick (h : s.Scripted (.receive cap timeout) .test bus hook) (hfs : s.work.fs = some fs)
    (hempty : fs.getLsbD 0 = true) (htimeout : timeout ≠ 0) (hsteps : s.env.tickSteps = d :: steps) :
    runs 1 s = .next
      (s.ranTo (.receive cap timeout) .deadline
        { s.work with now := some ((s.env.tick + d) % 2 ^ s.par.tickBits) } (s.env.ticked steps d 1)
        [.tick ((s.env.tick + d) % 2 ^ s.par.tickBits)]) := by
  rw [h.runs_one (exec_receive_test_tick h.phase hfs hempty htimeout)]
  simp [State.ranTo, State.tickRead_eq, State.tickReading, Env.nextTick_scripted hsteps, Env.readTick_scripted hsteps]

/-- The deadline test when the reading comes `p` ticks after the start, short of the timeout. -/
theorem exec_receive_before_deadline (hp : s.phase = .busy (.receive cap timeout) .deadline)
    (ht0 : s.work.t0 = some (c0 % 2 ^ s.par.tickBits)) (hnow : s.work.now = some ((c0 + p) % 2 ^ s.par.tickBits))
    (hbefore : p < timeout) (hfits : p < 2 ^ s.par.tickBits) :
    exec (.receive cap timeout) s = .next
      { s with phase := .busy (.receive cap timeout) .yld, history := s.history ++ [.yield] } := by
  rw [exec_receive_deadline hp ht0 hnow, elapsed_readings hfits, if_neg hbefore.not_ge]

/-- The deadline test when the reading comes `p` ticks after the start, the timeout reached. -/
theorem exec_receive_at_deadline (hp : s.phase = .busy (.receive cap timeout) .deadline)
    (ht0 : s.work.t0 = some (c0 % 2 ^ s.par.tickBits)) (hnow : s.work.now = some ((c0 + p) % 2 ^ s.par.tickBits))
    (hreached : timeout ≤ p) (hfits : p < 2 ^ s.par.tickBits) :
    exec (.receive cap timeout) s = .next (s.responded { result := .timeout }) := by
  rw [exec_receive_deadline hp ht0 hnow, elapsed_readings hfits, if_pos hreached]

/-- An empty poll before the deadline: a tick reading and a yield. -/
theorem runs_receive_before_deadline (h : s.Scripted (.receive cap timeout) .test bus hook)
    (hfs : s.work.fs = some fs) (hempty : fs.getLsbD 0 = true) (hsteps : s.env.tickSteps = d :: steps)
    (ht0 : s.work.t0 = some (c0 % 2 ^ s.par.tickBits)) (htick : s.env.tick = c0 + p) (hbefore : p + d < timeout)
    (hfits : timeout < 2 ^ s.par.tickBits) :
    runs 2 s = .next
      (s.ranTo (.receive cap timeout) .yld
        { s.work with now := some ((s.env.tick + d) % 2 ^ s.par.tickBits) } (s.env.ticked steps d 1)
        [.tick ((s.env.tick + d) % 2 ^ s.par.tickBits), .yield]) := by
  have hread := runs_receive_tick h hfs hempty (by omega) hsteps
  rw [htick, Nat.add_assoc] at hread ⊢
  refine (runs_then_exec hread h.unmarked rfl h.host
    (exec_receive_before_deadline rfl ht0 rfl hbefore (hbefore.trans hfits)) rfl).trans ?_
  simp [State.ranTo]

/-- An empty poll at the deadline: a tick reading and Timeout, chip-enable as it is. -/
theorem runs_receive_at_deadline (h : s.Scripted (.receive cap timeout) .test bus hook)
    (hfs : s.work.fs = some fs) (hempty : fs.getLsbD 0 = true) (htimeout : timeout ≠ 0)
    (hsteps : s.env.tickSteps = d :: steps) (ht0 : s.work.t0 = some (c0 % 2 ^ s.par.tickBits))
    (htick : s.env.tick = c0 + p) (hreached : timeout ≤ p + d) (hfits : p + d < 2 ^ s.par.tickBits) :
    runs 2 s = .next
      { s with
        phase := .idle, work := {}, env := s.env.ticked steps d 1
        history := s.history ++
          [.tick ((s.env.tick + d) % 2 ^ s.par.tickBits), .response { result := .timeout }] } := by
  have hread := runs_receive_tick h hfs hempty htimeout hsteps
  rw [htick, Nat.add_assoc] at hread ⊢
  refine (runs_then_exec hread h.unmarked rfl h.host
    (exec_receive_at_deadline rfl ht0 rfl hreached hfits) rfl).trans ?_
  simp [State.ranTo, State.responded, Work.empty]

/-- The register `now` after empty polls with tick readings, the count standing at c before them. -/
def lastReading (tickBits c : Nat) (now : Option Nat) (polls : TimedPolls) : Option Nat :=
  match polls with
  | [] => now
  | (_, d) :: rest => lastReading tickBits (c + d) (some ((c + d) % 2 ^ tickBits)) rest

/-- Any number of empty polls before the deadline and then another one, `p` ticks having passed before them. -/
theorem runs_receive_timedPolls {polls : TimedPolls} (hhead : PollHead looks l)
    (h : s.Scripted (.receive cap timeout) l (pollAnswers (polls.map Prod.fst) ++ .ok [fs] :: bus)
      (List.replicate (looks + polls.length) true ++ hook))
    (hsteps : s.env.tickSteps = polls.map Prod.snd ++ steps)
    (ht0 : s.work.t0 = some (c0 % 2 ^ s.par.tickBits)) (htick : s.env.tick = c0 + p)
    (hempty : (polls.all fun x => x.1.getLsbD 0) = true) (hbefore : p + ticksPassed polls < timeout)
    (hfits : timeout < 2 ^ s.par.tickBits) :
    runs (3 * polls.length + 1) s = .next
      (s.ranTo (.receive cap timeout) .test
        { s.work with fs := some fs, now := lastReading s.par.tickBits s.env.tick s.work.now polls }
        ((s.env.took bus (polls.length + 1) hook (looks + polls.length)).ticked steps (ticksPassed polls) polls.length)
        (timedPolls s.par.tickBits s.env.tick polls ++ [.bus [wr [0x17#8], rd 1] (.ok [fs])])) := by
  induction polls generalizing s l looks p with
  | nil =>
    obtain rfl : s.env.tickSteps = steps := hsteps
    exact runs_receive_read hhead h
  | cons poll polls ih =>
    obtain ⟨b, d⟩ := poll
    rw [List.all_cons, Bool.and_eq_true] at hempty
    obtain ⟨hb, hrest⟩ := hempty
    have hpassed : ticksPassed ((b, d) :: polls) = d + ticksPassed polls := by simp [ticksPassed]
    have hlooks : looks + ((b, d) :: polls).length = looks + (1 + polls.length) := by rw [List.length_cons]; omega
    rw [hlooks, List.replicate_add, List.append_assoc] at h
    rw [hpassed] at hbefore ⊢
    have hyield := runs_ranTo_env (runs_receive_read hhead h)
      (runs_receive_before_deadline h.ranTo rfl hb hsteps ht0 htick (by omega) hfits) rfl
    have htick' : s.env.tick + d = c0 + (p + d) := by omega
    refine (runs_ranTo_env hyield (ih (.inr ⟨rfl, rfl⟩) ⟨h.unmarked, rfl, h.host, rfl, rfl⟩ rfl ht0 htick' hrest
      (by omega) hfits) ?_).trans ?_
    · rw [List.length_cons]; omega
    · simp [timedPolls, lastReading, Nat.add_comm 1]

end

/-! ## From request to response -/

/-- Settles O48: the polls take no tick, and the poll after them finds the payload. -/
theorem receiveWithoutTimeoutWaitsForData : Obligations.ReceiveWithoutTimeoutWaitsForData := by
  intro s cap c w b fs polls payload rest more hook r v hready hcap hlen hempty hpending hw hpayload hbus hhook
  rw [← Nat.zero_add polls.length] at hhook
  have ⟨hu, hidle, _, hrest⟩ := hready
  have hstart := runs_receive_start hready hcap hlen (Nat.two_pow_pos _) hbus
  have hpolls := runs_ranTo hstart
    (runs_receive_quietPolls (.inl ⟨rfl, rfl⟩) ⟨hu, rfl, hrest, rfl, hhook⟩ hempty) rfl
  have hend := runs_trans hpolls
    (runs_receive_payload (hook := hook) ⟨hu, rfl, hrest, rfl, rfl⟩ rfl hpending hw hpayload) rfl
  have hsteps : 10 + 2 * polls.length = 5 + (2 * polls.length + 1) + 4 := by omega
  have hanswers : 2 + (polls.length + 1) + 2 = 5 + polls.length := by omega
  rw [hsteps, hend]
  simp [State.ranTo, receiveStart, State.tickReading, ← Env.readTick_took, frameReadPayload, r, v, hidle, hanswers]

/-- Settles O49: the polls stay before the deadline, and the poll after them has reached it. -/
theorem receiveTimesOutAtTheDeadline : Obligations.ReceiveTimesOutAtTheDeadline := by
  intro s cap timeout c fs d0 d polls rest more steps hook r c0 cEnd hready hcap hlen hpos hfits hempty hfs hbefore
    hreached hbound hbus htickSteps hhook
  rw [← Nat.zero_add polls.length] at hhook
  rw [← Nat.zero_add (ticksPassed polls)] at hbefore
  have ⟨hu, hidle, _, hrest⟩ := hready
  have hnext : s.env.nextTick = c0 := Env.nextTick_scripted htickSteps
  have hstart := runs_receive_start hready hcap hlen hfits hbus
  have hpolls := runs_ranTo_env hstart
    (runs_receive_timedPolls (c0 := s.env.nextTick) (p := 0) (steps := d :: steps) (.inl ⟨rfl, rfl⟩)
      ⟨hu, rfl, hrest, rfl, hhook⟩ (congrArg List.tail htickSteps) rfl rfl hempty hbefore hfits) rfl
  have hend := runs_trans hpolls
    (runs_receive_at_deadline (hook := hook) ⟨hu, rfl, hrest, rfl, rfl⟩ rfl hfs hpos.ne' rfl rfl rfl
      hreached hbound) rfl
  have hsteps : 8 + 3 * polls.length = 5 + (3 * polls.length + 1) + 2 := by omega
  have henv : ((s.env.withHost rest).readTick.took more (2 + (polls.length + 1)) hook polls.length).ticked steps
      (ticksPassed polls + d) (polls.length + 1) =
        { s.env.advanced rest more (3 + polls.length) hook polls.length with
          tick := cEnd, tickSteps := steps, tickReads := s.env.tickReads + 2 + polls.length } := by
    have hanswers : 2 + (polls.length + 1) = 3 + polls.length := by omega
    have hreads : s.env.tickReads + 1 + (polls.length + 1) = s.env.tickReads + 2 + polls.length := by omega
    rw [hanswers, Env.readTick_took_ticked, hnext, hreads, ← Nat.add_assoc c0]
  rw [hsteps, hend]
  simp [State.ranTo, receiveStart, State.tickReading, henv, hnext, r, cEnd, hidle]

end Sys2Proof.Machine
end

section
/-! PROOFS. Refusals and marks (O12, O13), the wait for the hook (O40), the count of requests and responses (O52) and
the tick count (O58). -/

namespace Sys2Proof

/-! ## Requests decode to host operations -/

theorem checkData_ok {r : Request} {i j : Instr} (h : checkData r i = .ok j) : i = j := by
  unfold checkData at h
  split at h
  · exact Except.ok.inj h
  · cases h

/-- No operation code selects a bus command (R3, R89). -/
theorem isHostOp_of_decodeRequest {r : Request} {i : Instr} (h : decodeRequest r = .ok i) : i.isHostOp = true := by
  unfold decodeRequest at h
  split at h
  case h_4 | h_5 | h_15 => exact checkData_ok h ▸ rfl
  case h_17 => cases h
  all_goals exact Except.ok.inj h ▸ rfl

end Sys2Proof

namespace Sys2Proof.Machine

open Sys2Proof

/-! ## One response per request -/

theorem requestsOf_append (h h' : List Event) : requestsOf (h ++ h') = requestsOf h ++ requestsOf h' :=
  List.filterMap_append

theorem responsesOf_append (h h' : List Event) : responsesOf (h ++ h') = responsesOf h ++ responsesOf h' :=
  List.filterMap_append

/-- An event keeps the count when the phase moves with it: a request accepted adds an open one, a response delivered
takes one away. -/
theorem AllAnswered.append {s t : State} {e : Event} (ha : AllAnswered s) (hh : t.history = s.history ++ [e])
    (hopen : (requestsOf [e]).length + openRequests s.phase = (responsesOf [e]).length + openRequests t.phase) :
    AllAnswered t := by
  unfold AllAnswered at ha ⊢
  rw [hh, requestsOf_append, responsesOf_append, List.length_append, List.length_append]
  omega

theorem AllAnswered.noEvent {s t : State} (ha : AllAnswered s) (hh : t.history = s.history)
    (hopen : openRequests t.phase = openRequests s.phase) : AllAnswered t := by
  unfold AllAnswered at ha ⊢
  rw [hh, hopen, ha]

theorem openRequests_hostOp {i : Instr} (l : Label) (hi : i.isHostOp = true) : openRequests (.busy i l) = 1 :=
  if_pos hi

theorem openRequests_command {i : Instr} (l : Label) (hi : i.isHostOp = false) : openRequests (.busy i l) = 0 :=
  if_neg (Bool.eq_false_iff.mp hi)

/-- A host operation keeps its request open until it delivers its response (R220); a bus command, which no request
selects, ends without one (log entry 9). -/
theorem Action.allAnswered {i : Instr} {l : Label} {s t : State} (h : Action i s t) (hp : s.phase = .busy i l)
    (ha : AllAnswered s) : AllAnswered t := by
  cases h with
  | response r hi ht =>
    subst t
    exact ha.append rfl (by rw [hp, openRequests_hostOp l hi]; rfl)
  | ended hi ht =>
    subst t
    exact ha.noEvent rfl (by rw [hp, openRequests_command l hi]; rfl)
  | moved hi ht =>
    subst t i
    exact ha.noEvent rfl (by rw [hp]; rfl)
  | wait ht => exact ht ▸ ha.noEvent rfl rfl
  | fault f work ht => exact ht ▸ ha.noEvent rfl rfl
  | _ => subst t; exact ha.append rfl (by rw [hp]; rfl)

theorem Stepped.allAnswered {s t : State} (h : Stepped s t) (ha : AllAnswered s) : AllAnswered t := by
  cases h with
  | waits hp ht => exact ht ▸ ha
  | accepts r i hp hd hw ht =>
    subst t
    exact ha.append rfl (by rw [hp, State.goto_phase, openRequests_hostOp _ (isHostOp_of_decodeRequest hd)]; rfl)
  | illegal r opc hp hd ht =>
    subst t
    exact ha.append rfl (by rw [hp]; rfl)
  | refuses r ht => exact ht ▸ ha.noEvent rfl rfl
  | rejects opc hp ht =>
    subst t
    exact ha.append rfl (by rw [hp]; rfl)
  | runs i l hp he => exact (action_of_exec he).allAnswered hp ha

/-- Settles O52: a step opens a request as it accepts one and closes it as it delivers the response. -/
theorem oneResponsePerRequest : Obligations.OneResponsePerRequest := by
  intro s t ha hstep
  obtain ⟨-, s', rfl | rfl, hst⟩ := step_cases hstep
  · exact hst.allAnswered ha
  · exact hst.allAnswered (ha.noEvent rfl rfl)

/-! ## The tick count -/

/-- The next reading adds an increment, scripted or not, to the count (R232). -/
theorem Env.tick_le_nextTick (e : Env) : e.tick ≤ e.nextTick := by
  unfold Env.nextTick
  split <;> exact Nat.le_add_right _ _

theorem Action.tick_le {i : Instr} {s t : State} (h : Action i s t) : s.env.tick ≤ t.env.tick := by
  cases h with
  | bus f a l work env hl htick hhost ht => exact ht ▸ htick.ge
  | tick l work ht => exact ht ▸ s.env.tick_le_nextTick
  | _ => subst t; exact le_rfl

theorem Stepped.tick_le {s t : State} (h : Stepped s t) : s.env.tick ≤ t.env.tick := by
  cases h with
  | runs i l hp he => exact (action_of_exec he).tick_le
  | _ => subst t; exact le_rfl

/-- Settles O58: of the cases of a step only a tick reading moves the count. -/
theorem tickCountNeverDecreases : Obligations.TickCountNeverDecreases := by
  intro s t hstep
  obtain ⟨-, s', rfl | rfl, hst⟩ := step_cases hstep <;> exact hst.tick_le

/-! ## Marks -/

theorem step_faultMark {s : State} {f : Fault} (hf : s.faultMark = some f) : step s = .fault f := by
  simp [step, sequencerStep, hf]

theorem step_refusalMark {s : State} {r : Refusal} (hf : s.faultMark = none) (hr : s.refusalMark = some r) :
    step s = .refused r := by
  simp [step, sequencerStep, hf, hr]

/-- A fault ends a run, however many steps are left of it. -/
theorem runs_fault {s : State} {f : Fault} (k : Nat) (h : step s = .fault f) : runs (k + 1) s = .fault f := by
  have h' : Sys2Proof.core.step s = .fault f := h
  simp only [runs, Host.Core.run, h']
  rfl

theorem runs_refused {s : State} {r : Refusal} (k : Nat) (h : step s = .refused r) :
    runs (k + 1) s = .refused r := by
  have h' : Sys2Proof.core.step s = .refused r := h
  simp only [runs, Host.Core.run, h']
  rfl

/-- Settles O13: a marked state answers its mark at the first step. -/
theorem markedMachineStopsForGood : Obligations.MarkedMachineStopsForGood := fun _ k =>
  ⟨fun _ hf => runs_fault k (step_faultMark hf), fun _ hf hr => runs_refused k (step_refusalMark hf hr)⟩

/-! ## Refusals -/

theorem step_intrude {s : State} {r : Request} {rest : List HostAct} (hu : s.unmarked)
    (hh : s.env.host = .intrude r :: rest) : step s = intrusion r s.popHost := by
  rw [step_unmarked hu]
  simp [hostStep, hh]

theorem intrusion_idle {s : State} {r : Request} (hp : s.phase = .idle) : intrusion r s = accept r s := by
  simp [intrusion, hp]

theorem intrusion_outside_idle {s : State} {r : Request} (hp : s.phase ≠ .idle) :
    intrusion r s = recordRefusal .reentrant s := by
  unfold intrusion
  split
  case h_1 hidle => exact absurd hidle hp
  all_goals rfl

theorem accept_malformed {s : State} {r : Request} (hd : decodeRequest r = .error .malformedRequest) :
    accept r s = recordRefusal .malformedRequest s := by
  simp [accept, hd]

/-- A step that records a refusal changes nothing else but the host's list, and the next step answers that refusal
(R229; log entry 14). -/
theorem step_and_runs_of_recordRefusal {s : State} {r : Refusal} {a : HostAct} {rest : List HostAct}
    (hu : s.unmarked) (hh : s.env.host = a :: rest) (k : Nat) (hstep : step s = recordRefusal r s.popHost) :
    step s = .next { s with refusalMark := some r, env := s.env.withHost rest } ∧
    runs (k + 2) s = .refused r := by
  obtain ⟨hf, hr⟩ := hu
  have hnext : step s = .next { s with refusalMark := some r, env := s.env.withHost rest } := by
    rw [hstep, popHost_eq hh, recordRefusal, hr, Option.none_or]
  exact ⟨hnext, (runs_succ hnext).trans (runs_refused k (step_refusalMark hf rfl))⟩

/-- Settles O12: outside Idle an intrusion, in Idle the decoder rejecting the request, records the refusal. -/
theorem refusedRequests : Obligations.RefusedRequests := by
  refine ⟨fun s r rest k hu hp hh => ?_, fun s r rest k hu hp hh hopc hlen => ?_⟩
  · exact step_and_runs_of_recordRefusal hu hh k ((step_intrude hu hh).trans (intrusion_outside_idle hp))
  · have hrefuse : accept r s.popHost = recordRefusal .malformedRequest s.popHost :=
      accept_malformed (decodeRequest_malformed hopc hlen)
    obtain hh | hh := hh
    · exact step_and_runs_of_recordRefusal hu hh k
        ((step_intrude hu hh).trans ((intrusion_idle (s := s.popHost) hp).trans hrefuse))
    · exact step_and_runs_of_recordRefusal hu hh k ((step_call hu hp hh).trans hrefuse)

/-! ## The wait for the hook -/

/-- Settles O40: in the yield both operations do nothing but look at the hook. -/
theorem yieldWaitsForTheHook : Obligations.YieldWaitsForTheHook := by
  rintro s i (⟨len, data, rfl⟩ | ⟨cap, timeout, rfl⟩) hp hhook
  · simp only [exec, execSend, State.pos_busy hp, awaitHook_waiting hhook, State.popHook]
  · simp only [exec, execReceive, State.pos_busy hp, awaitHook_waiting hhook, State.popHook]

end Sys2Proof.Machine
end
